-- ==== Sys2Proof/Word.lean ====
section
/-! DEFINITION. The engine's value types (00_scope.md rules R7 and R9, 20_memory.md rule R46). -/

namespace Sys2Proof

/-- `u64`: the value of a general register (R7, R20). -/
abbrev Word := BitVec 64

/-- `u8`: one raw program element, `ELEM_BITS` = 8 bits (R8, R40). -/
abbrev Elem := BitVec 8

/-- `u3`: the operand field of an instruction and one output digit (R7). -/
abbrev U3 := BitVec 3

end Sys2Proof
end

