-- ==== Sys2Proof/Machine/FaultRecord.lean ====
section
/-! DEFINITION. The fault causes and the fault record `FAULT` (10_state.md rule R28, 60_exceptions.md rule R150).
They stand before the decoder, which raises the three decode faults. -/

namespace Sys2Proof.Machine

/-- The causes of R150. Codes 6 and 7 are reserved and never raised, so they have no constructor (log entry 15). -/
inductive FaultCause where
  /-- no fault -/
  | none
  /-- decode: an opcode element is 8 to 255 (R68) -/
  | invalidOpcode
  /-- decode: the raw length is odd (R67) -/
  | oddLength
  /-- decode: an operand element is 8 to 255 (R69) -/
  | operandOutOfRange
  /-- execution: a combo operand of 7 was resolved (R93) -/
  | reservedCombo
  /-- execution: a shift by 64 or more under `SHIFT_POLICY = Fault` (R110) -/
  | shiftOverflow
  deriving DecidableEq, Repr

/-- The 3-bit code that `FAULT.cause` holds (R150). -/
def FaultCause.code : FaultCause → BitVec 3
  | .none => 0
  | .invalidOpcode => 1
  | .oddLength => 2
  | .operandOutOfRange => 3
  | .reservedCombo => 4
  | .shiftOverflow => 5

/-- The kind "decode" of R150. -/
def FaultCause.isDecode : FaultCause → Bool
  | .invalidOpcode | .oddLength | .operandOutOfRange => true
  | .none | .reservedCombo | .shiftOverflow => false

/-- The kind "execution" of R150. -/
def FaultCause.isExecution : FaultCause → Bool
  | .reservedCombo | .shiftOverflow => true
  | .none | .invalidOpcode | .oddLength | .operandOutOfRange => false

/-- The read-only fault record `FAULT` (R28). -/
structure FaultRecord where
  cause : FaultCause
  index : Nat
  opcode : Elem
  operand : Elem
  deriving DecidableEq, Repr

/-- The "value when no fault" of R28: every field 0. -/
def FaultRecord.clear : FaultRecord := { cause := .none, index := 0, opcode := 0, operand := 0 }

end Sys2Proof.Machine
end

