-- ==== Sys2Proof/Syntax.lean ====
section
/-! DEFINITION. The instruction set: one constructor per row of spec/opcode_table.json, each carrying its `u3`
operand (30_encoding.md rules R63, R64 and R76). The eight opcodes are the whole set (00_scope.md rule R2). -/

namespace Sys2Proof

/-- An instruction: an opcode and its 3-bit operand (10_state.md rule R31). -/
inductive Instr where
  /-- `adv x`, opcode 0, combo operand (R111). -/
  | adv (x : U3)
  /-- `bxl x`, opcode 1, literal operand (R120). -/
  | bxl (x : U3)
  /-- `bst x`, opcode 2, combo operand (R121). -/
  | bst (x : U3)
  /-- `jnz x`, opcode 3, literal operand in raw-index units (R130). -/
  | jnz (x : U3)
  /-- `bxc x`, opcode 4, operand decoded and ignored (R122). -/
  | bxc (x : U3)
  /-- `out x`, opcode 5, combo operand (R140). -/
  | out (x : U3)
  /-- `bdv x`, opcode 6, combo operand (R112). -/
  | bdv (x : U3)
  /-- `cdv x`, opcode 7, combo operand (R113). -/
  | cdv (x : U3)
  deriving DecidableEq, Repr

/-- How an opcode reads its operand field (R63, R64). -/
inductive OperandKind where
  | combo
  | literal
  | ignored
  deriving DecidableEq, Repr

/-- The operand kind belongs to the opcode, not to the encoding (R65). -/
def Instr.operandKind : Instr → OperandKind
  | .adv _ | .bst _ | .out _ | .bdv _ | .cdv _ => .combo
  | .bxl _ | .jnz _ => .literal
  | .bxc _ => .ignored

/-- The operand field `x` (R64); bxc's is kept too, though no rule reads it. -/
def Instr.operand : Instr → U3
  | .adv x | .bxl x | .bst x | .jnz x | .bxc x | .out x | .bdv x | .cdv x => x

/-- The lowercase mnemonics of R63. -/
def Instr.mnemonic : Instr → String
  | .adv _ => "adv"
  | .bxl _ => "bxl"
  | .bst _ => "bst"
  | .jnz _ => "jnz"
  | .bxc _ => "bxc"
  | .out _ => "out"
  | .bdv _ => "bdv"
  | .cdv _ => "cdv"

end Sys2Proof
end

