-- ==== Sys2Proof/Decode.lean ====
section
/-! DEFINITION. Decoder and encoder (30_encoding.md rules R60 to R73). Total on any raw sequence; every rejection is one
of the three named decode faults of 60_exceptions.md rule R150. -/

namespace Sys2Proof

open Sys2Proof.Machine (FaultCause FaultRecord)

/-! ### Decoding -/

/-- The low three bits of an operand element, the field `x = w[2:0]` of R61. -/
def operandField (e1 : Elem) : U3 := e1.extractLsb' 0 3

/-- The opcode map of R63, on the WHOLE opcode element: no coercion to three bits (R68). -/
def instrOf (e0 : Elem) (x : U3) : Option Instr :=
  match e0.toNat with
  | 0 => some (.adv x)
  | 1 => some (.bxl x)
  | 2 => some (.bst x)
  | 3 => some (.jnz x)
  | 4 => some (.bxc x)
  | 5 => some (.out x)
  | 6 => some (.bdv x)
  | 7 => some (.cdv x)
  | _ => none

/-- One pair of the loop of R66: the opcode element is checked before the operand element (R155 (b)). -/
def decodePair (e0 e1 : Elem) : Except FaultCause Instr :=
  match instrOf e0 (operandField e1) with
  | none => .error .invalidOpcode
  | some i => if 8 ≤ e1.toNat then .error .operandOutOfRange else .ok i

/-- The ascending loop of R66, from instruction index `i` on. Its one-element case is `OddLength` by R67's meaning;
`decodeProgram` has checked the length before, so it never meets it. -/
def decodePairs : Nat → List Elem → Except FaultRecord (List Instr)
  | _, [] => .ok []
  | i, [_] => .error { cause := .oddLength, index := i, opcode := 0, operand := 0 }
  | i, e0 :: e1 :: rest =>
    match decodePair e0 e1 with
    | .error cause => .error { cause := cause, index := i, opcode := e0, operand := e1 }
    | .ok ins =>
      match decodePairs (i + 1) rest with
      | .error f => .error f
      | .ok p => .ok (ins :: p)

/-- `Decode(L)` of R66: the length first (R67), then the pairs in ascending order. -/
def decodeProgram (raw : List Elem) : Except FaultRecord (List Instr) :=
  if raw.length % 2 ≠ 0 then
    .error { cause := .oddLength, index := raw.length / 2, opcode := 0, operand := 0 }
  else decodePairs 0 raw

/-- The opcode element of the 16-bit view: `w[15:8]` (R61). -/
def wordOpcode (w : BitVec 16) : Elem := w.extractLsb' 8 8

/-- The operand element of the 16-bit view: `w[7:0]`, that is `opx` and `x` (R61). -/
def wordOperand (w : BitVec 16) : Elem := w.extractLsb' 0 8

/-- The decoder on the 16-bit view `w = {e0, e1}` (R61). -/
def decodeWord (w : BitVec 16) : Except FaultCause Instr :=
  decodePair (wordOpcode w) (wordOperand w)

/-! ### Encoding, written from the table of R63 and the format of R61 -/

/-- The opcode element of an instruction (R63). -/
def encodeOpcode : Instr → Elem
  | .adv _ => 0
  | .bxl _ => 1
  | .bst _ => 2
  | .jnz _ => 3
  | .bxc _ => 4
  | .out _ => 5
  | .bdv _ => 6
  | .cdv _ => 7

/-- The operand element of an instruction: `opx = 0`, then `x` (R61). -/
def encodeOperand (i : Instr) : Elem := i.operand.setWidth 8

/-- The two raw elements of an instruction, the opcode element first (R44, R62). -/
def encode (i : Instr) : List Elem := [encodeOpcode i, encodeOperand i]

/-- The 16-bit view of an instruction (R61). -/
def encodeWord (i : Instr) : BitVec 16 := encodeOpcode i ++ encodeOperand i

/-- The raw program of a list of instructions (R62). -/
def encodeProgram : List Instr → List Elem
  | [] => []
  | i :: p => encode i ++ encodeProgram p

/-! ### The numbering of spec/opcode_table.json -/

/-- The 16-bit word of a table row's bits. The table's word is the view of R61, so its high byte is the first raw
element; bits from `nbits` up are zero, and no instruction has more than 16 bits (log entry 17). -/
def tableWord (nbits w : Nat) : BitVec 16 := BitVec.ofNat 16 (w % 2 ^ nbits)

/-- The raw elements of a table row's word, in the order the engine stores them (R44). -/
def tableElems (nbits w : Nat) : List Elem :=
  [wordOpcode (tableWord nbits w), wordOperand (tableWord nbits w)]

/-- The instruction the decoder reads from a table row's bits. -/
def decodeTableWord (nbits w : Nat) : Option Instr :=
  match decodeProgram (tableElems nbits w) with
  | .ok [i] => some i
  | _ => none

end Sys2Proof
end

