-- ==== Sys2Proof/Config.lean ====
section
/-! DEFINITION. What an implementation of the engine fixes at build time (00_scope.md rules R7 and R8, 10_state.md
rule R29). `N_MAX` and `OUT_MAX` are unbounded in the model, as R8 says (log entries 7 and 8), and `IP_BITS` is
unbounded with them: `pc` is a natural number. The spec leaves no instruction result open once `SHIFT_POLICY` is
given, so there is no free value here. -/

namespace Sys2Proof

/-- `SHIFT_POLICY`: what a shift by 64 or more does (R8, R29, 41_shift.md rule R110). -/
inductive ShiftPolicy where
  /-- `Zero`, the spec's choice: the result is 0. -/
  | zero
  /-- `Fault`, the named alternative: `ShiftOverflow` is raised. -/
  | fault
  deriving DecidableEq, Repr

/-- The build-time configuration of an engine: never written by Load, by a step or by the host (R29). -/
structure Config where
  shiftPolicy : ShiftPolicy
  deriving DecidableEq, Repr

/-- The configuration the spec chooses: `SHIFT_POLICY = Zero` (R29). -/
def Config.standard : Config := { shiftPolicy := .zero }

end Sys2Proof
end

