-- ==== Sys2Proof/Machine/Memory.lean ====
section
/-! DEFINITION. Raw program memory (20_memory.md rules R40 to R42): elements at raw indices 0 .. L-1, written whole by
Load, read by the decoder alone. The engine has no data memory and no rule writes a single element (00_scope.md rule
R9), so the operations are the store of a whole raw program and the read of one element. -/

namespace Sys2Proof.Machine

/-- Raw program memory as (raw index, element) pairs, in the one canonical form of `Memory.wf`. -/
abbrev Memory := List Host.Cell

/-- Nothing listed: no raw program. -/
def Memory.empty : Memory := []

/-- The cells of a raw sequence from raw index `k` on. -/
def Memory.cellsFrom : Nat → List Elem → Memory
  | _, [] => []
  | k, e :: es => (k, e) :: Memory.cellsFrom (k + 1) es

/-- R160 (3): store a raw sequence as program memory, its first element at raw index 0. -/
def Memory.ofElems (raw : List Elem) : Memory := Memory.cellsFrom 0 raw

/-- What a raw index that is not listed reads as: nothing, since no element is there (R40, R47; log entry 16). -/
def Memory.unlisted : Option Elem := none

/-- `MemRead(addr, 1)` (R9). -/
def Memory.read (m : Memory) (addr : Nat) : Option Elem :=
  match m with
  | [] => Memory.unlisted
  | (k, e) :: rest => if k = addr then some e else Memory.read rest addr

/-- The elements in rising order of their raw index. -/
def Memory.elems (m : Memory) : List Elem := m.map Prod.snd

/-- The canonical form: the listed raw indices are 0, 1, …, L-1 in rising order. No entry can equal what an unlisted
index reads as, since that is no element at all. -/
def Memory.wf (m : Memory) : Bool := m.map Prod.fst == List.range m.length

end Sys2Proof.Machine
end

