-- ==== Sys2Proof/Machine/State.lean ====
section
/-! DEFINITION. The engine's state (10_state.md rule R34), the reasons a step can stop, and the state after reset. -/

namespace Sys2Proof.Machine

/-- `STATUS`, the 2-bit read-only status register with its four legal values (R27). -/
inductive Status where
  /-- `pc < N`, no fault; the engine takes another step -/
  | running
  /-- `pc >= N` was reached normally (R95) -/
  | halted
  /-- an execution fault stopped the engine (R151) -/
  | faulted
  /-- Load's decode failed; no instruction ever ran (R152) -/
  | decodeFailed
  deriving DecidableEq, Repr

/-- The names of the three general registers (R20). -/
inductive Reg where
  | a
  | b
  | c
  deriving DecidableEq, Repr

/-- The complete architectural state (R34), with the raw program memory of R32 and R40 and the build-time
configuration that the step reads beside it (R29, R99; log entry 4). -/
structure State where
  /-- `x[A]` (R20) -/
  a : Word
  /-- `x[B]` (R20) -/
  b : Word
  /-- `x[C]` (R20) -/
  c : Word
  /-- the instruction pointer, an index into `prog` (R23) -/
  pc : Nat
  /-- `STATUS` (R27) -/
  status : Status
  /-- `FAULT` (R28) -/
  fault : FaultRecord
  /-- `OUT`, the output buffer, oldest digit first (R30) -/
  out : List U3
  /-- `Prog`, the decoded program store; its length is `N` (R31) -/
  prog : List Instr
  /-- raw program memory, kept as Load stored it (R32, R40) -/
  mem : Memory
  /-- the build-time configuration (R29) -/
  config : Config
  deriving DecidableEq, Repr

/-- Why a step stops outside the engine's own fault handling. The engine's execution faults are NOT here: R151
describes their entry, so they are next states with `status = faulted`. -/
inductive Fault where
  /-- Raised by `step` alone, where STATUS is Running and no instruction stands at `pc`. R91 rules such a state out
  ("a fetch always finds an instruction"), no run reaches it, and no instruction raises it. Safe (log entry 6). -/
  | fetchOutsideProg
  deriving DecidableEq, Repr

/-- Why the model gives an instruction no meaning. Every instruction has one, so nothing raises it. -/
inductive Refusal where
  /-- An instruction that has no meaning yet, by its mnemonic; raised by no arm of `exec`. Safe. -/
  | notModelled (mnemonic : String)
  deriving DecidableEq, Repr

/-- The state after reset. The engine's reset is Load (R180), which takes host values; this is the state after
Load(0, 0, 0, empty program): DESIGN CHOICE, log entry 1. By R181 the empty program leaves STATUS Halted. -/
def State.reset : State where
  a := 0
  b := 0
  c := 0
  pc := 0
  status := .halted
  fault := FaultRecord.clear
  out := []
  prog := []
  mem := Memory.empty
  config := Config.standard

end Sys2Proof.Machine
end

