-- ==== Sys2Proof/Machine/Ops.lean ====
section
/-! DEFINITION. The named operations on the state: registers, pointer, halt test, output, fetch, and taking an
execution fault (40_execution_loop.md rules R90 to R96, 60_exceptions.md rule R151). There is no return from a fault
(60_exceptions.md rule R153): only Load leaves one. -/

namespace Sys2Proof.Machine

/-- The 2-bit value of `STATUS` (R27). -/
def Status.code : Status → BitVec 2
  | .running => 0
  | .halted => 1
  | .faulted => 2
  | .decodeFailed => 3

/-- `x[r]` (R9, R20). -/
def readReg (r : Reg) (s : State) : Word :=
  match r with
  | .a => s.a
  | .b => s.b
  | .c => s.c

/-- `x[r] <- v` (R9, R20). No register is hardwired. -/
def writeReg (r : Reg) (v : Word) (s : State) : State :=
  match r with
  | .a => { s with a := v }
  | .b => { s with b := v }
  | .c => { s with c := v }

/-- `pc <- target` (R9); the pointer does not wrap (R25). -/
def setPc (target : Nat) (s : State) : State := { s with pc := target }

/-- `Emit(d)`: append one digit at the end of `OUT` (R9, R30). -/
def emit (d : U3) (s : State) : State := { s with out := s.out ++ [d] }

/-- Step 5 of R90, `halt`: STATUS becomes Halted if `pc >= N` (R95). -/
def haltTest (s : State) : State :=
  if s.prog.length ≤ s.pc then { s with status := .halted } else s

/-- Steps 4 and 5 of R90 for an instruction that did not set `pc`: advance by one (R94), then the halt test. -/
def advance (s : State) : State := haltTest (setPc (s.pc + 1) s)

/-- Step 5 of R90 after a taken jnz: `pc` is the target and is not advanced (R94, R130), then the halt test. -/
def jump (target : Nat) (s : State) : State := haltTest (setPc target s)

/-- TAKING AN EXECUTION FAULT (R151): STATUS becomes Faulted and FAULT records the cause, the pointer and the raw
elements of the faulting instruction; nothing else is written. -/
def raise (cause : FaultCause) (i : Instr) (s : State) : State :=
  { s with
    status := .faulted
    fault := { cause := cause, index := s.pc, opcode := encodeOpcode i, operand := encodeOperand i } }

/-- Step 1 of R90: read `Prog[pc]` (R91). -/
def fetch (s : State) : Option Instr := s.prog[s.pc]?

/-- What a terminal state does: nothing, its state stays frozen until the next Load (R96; log entry 3). -/
def idle (s : State) : State := s

/-- A terminal STATUS: the run has ended (R27, R101). -/
def Status.terminal : Status → Bool
  | .running => false
  | .halted | .faulted | .decodeFailed => true

end Sys2Proof.Machine
end

