-- ==== Sys2Proof/Machine/Operands.lean ====
section
/-! DEFINITION. The operand forms: combo (40_execution_loop.md rules R92 and R93), literal and jump target
(30_encoding.md rule R64). -/

namespace Sys2Proof.Machine

/-- `Combo(x)` of R92 on the state at the start of the step; `none` is the reserved value 7 (R93). -/
def combo (s : State) (x : U3) : Option Word :=
  match x.toNat with
  | 0 => some 0
  | 1 => some 1
  | 2 => some 2
  | 3 => some 3
  | 4 => some (readReg .a s)
  | 5 => some (readReg .b s)
  | 6 => some (readReg .c s)
  | _ => none

/-- A literal operand: `zext_64(x)` (R64). -/
def literal (x : U3) : Word := x.setWidth 64

/-- jnz's literal in raw-index units, converted to an instruction index: `x div 2` (R64, R130). -/
def jumpTarget (x : U3) : Nat := x.toNat / 2

/-- `v[2:0]`, that is `v mod 8` (R9). -/
def low3 (v : Word) : U3 := v.extractLsb' 0 3

/-- Step 2 of R90 for a combo opcode: resolve `x`, or raise `ReservedCombo` and write nothing else (R93); then step 3
with the resolved value. -/
def withCombo (i : Instr) (x : U3) (s : State) (effect : Word → State) : Host.Outcome State Fault Refusal :=
  match combo s x with
  | none => .next (raise .reservedCombo i s)
  | some v => .next (effect v)

end Sys2Proof.Machine
end

