-- ==== Sys2Proof/Machine/Bitwise.lean ====
section
/-! DEFINITION. The bitwise family: bxl, bst, bxc (42_bitwise.md rules R120 to R122). -/

namespace Sys2Proof.Machine

/-- bxl (R120): `x[B] <- x[B] XOR zext_64(x)`; no exception, 7 is the literal 7 (R97). -/
def execBxl (x : U3) (s : State) : Host.Outcome State Fault Refusal :=
  .next (advance (writeReg .b (readReg .b s ^^^ literal x) s))

/-- bst (R121): `x[B] <- zext_64(v[2:0])`. -/
def execBst (x : U3) (s : State) : Host.Outcome State Fault Refusal :=
  withCombo (.bst x) x s fun v => advance (writeReg .b ((low3 v).setWidth 64) s)

/-- bxc (R122): `x[B] <- x[B] XOR x[C]`; the operand is not read, and no value of it faults (R97). -/
def execBxc (_x : U3) (s : State) : Host.Outcome State Fault Refusal :=
  .next (advance (writeReg .b (readReg .b s ^^^ readReg .c s) s))

end Sys2Proof.Machine
end

