-- ==== Sys2Proof/Machine/Flags.lean ====
section
/-! DEFINITION. The engine has no flags, condition codes or predicate registers (10_state.md rule R26), so no flag is
computed anywhere. What stands here is the one condition an instruction tests. -/

namespace Sys2Proof.Machine

/-- jnz's test of register A against zero, on all 64 bits (R26, R130). -/
def aNonzero (s : State) : Bool := readReg .a s != 0

end Sys2Proof.Machine
end

