-- ==== Sys2Proof/Machine/Control.lean ====
section
/-! DEFINITION. Control transfer: jnz (43_control.md rule R130). -/

namespace Sys2Proof.Machine

/-- jnz (R130): if `x[A] != 0`, `pc <- x div 2` and the pointer is not advanced; otherwise it advances by one. -/
def execJnz (x : U3) (s : State) : Host.Outcome State Fault Refusal :=
  .next (if aNonzero s then jump (jumpTarget x) s else advance s)

end Sys2Proof.Machine
end

