-- ==== Sys2Proof/Machine/Output.lean ====
section
/-! DEFINITION. Output: out (44_output.md rule R140). -/

namespace Sys2Proof.Machine

/-- out (R140): append `v[2:0]` to `OUT`; it never stalls and never overflows (R30). -/
def execOut (x : U3) (s : State) : Host.Outcome State Fault Refusal :=
  withCombo (.out x) x s fun v => advance (emit (low3 v) s)

end Sys2Proof.Machine
end

