-- ==== Sys2Proof/Machine/Shift.lean ====
section
/-! DEFINITION. The shift family: adv, bdv, cdv (41_shift.md rules R110 to R113). -/

namespace Sys2Proof.Machine

/-- `Shr(a, n)` of R110: a logical right shift for `n <= 63`; from 64 on `SHIFT_POLICY` decides, and `none` is
`ShiftOverflow`. -/
def shr (policy : ShiftPolicy) (v n : Word) : Option Word :=
  if n.toNat ≤ 63 then some (v >>> n.toNat)
  else
    match policy with
    | .zero => some 0
    | .fault => none

/-- The execute part that R111, R112 and R113 share: `x[dst] <- Shr(x[A], v)`, then the advance; or `ShiftOverflow`,
with nothing written (R110, R151). -/
def shiftInto (dst : Reg) (i : Instr) (v : Word) (s : State) : State :=
  match shr s.config.shiftPolicy (readReg .a s) v with
  | none => raise .shiftOverflow i s
  | some r => advance (writeReg dst r s)

/-- adv (R111): `x[A] <- Shr(x[A], Combo(x))`. -/
def execAdv (x : U3) (s : State) : Host.Outcome State Fault Refusal :=
  withCombo (.adv x) x s fun v => shiftInto .a (.adv x) v s

/-- bdv (R112): `x[B] <- Shr(x[A], Combo(x))`; A is not written. -/
def execBdv (x : U3) (s : State) : Host.Outcome State Fault Refusal :=
  withCombo (.bdv x) x s fun v => shiftInto .b (.bdv x) v s

/-- cdv (R113): `x[C] <- Shr(x[A], Combo(x))`; A is not written. -/
def execCdv (x : U3) (s : State) : Host.Outcome State Fault Refusal :=
  withCombo (.cdv x) x s fun v => shiftInto .c (.cdv x) v s

end Sys2Proof.Machine
end

