-- ==== Sys2Proof/Machine/Load.lean ====
section
/-! DEFINITION. Load, the engine's reset (60_exceptions.md rules R152 and R160, 70_reset_and_hazards.md rules R180
to R182). -/

namespace Sys2Proof.Machine

/-- STATUS after a successful decode: the halt test at `pc = 0`, so Halted exactly for the empty program (R181). -/
def statusAfterDecode (p : List Instr) : Status :=
  if p.length = 0 then .halted else .running

/-- TAKING A DECODE FAULT (R152): STATUS becomes DecodeFailed and FAULT records what R66 passes. A failed decode
produces no instructions (R70; log entry 5). -/
def raiseDecode (f : FaultRecord) (s : State) : State :=
  { s with prog := [], status := .decodeFailed, fault := f }

/-- Steps 5 and 6 of R180: store the raw program, decode it, set STATUS. -/
def storeProgram (raw : List Elem) (s : State) : State :=
  match decodeProgram raw with
  | .ok p => { s with mem := Memory.ofElems raw, prog := p, status := statusAfterDecode p }
  | .error f => raiseDecode f { s with mem := Memory.ofElems raw }

/-- Steps 1 to 4 of R180: registers from the host, pointer 0, output empty, no fault. -/
def clearFor (a0 b0 c0 : Word) (s : State) : State :=
  { s with a := a0, b := b0, c := c0, pc := 0, out := [], fault := FaultRecord.clear }

/-- Load(A0, B0, C0, raw) (R160), in the order of R180. All state of an earlier run is discarded; the build-time
configuration stays (R182). -/
def load (a0 b0 c0 : Word) (raw : List Elem) (s : State) : State :=
  storeProgram raw (clearFor a0 b0 c0 s)

end Sys2Proof.Machine
end

