-- ==== Sys2Proof/Machine/Step.lean ====
section
/-! DEFINITION. One step (40_execution_loop.md rules R90, R91 and R96), and the placing of one instruction where the
next step fetches. -/

namespace Sys2Proof.Machine

/-- One step of R90: while STATUS is Running, fetch `Prog[pc]` and run it; a terminal state stays frozen (R96). A
Running state with no instruction at `pc` is ruled out by R91 and faults (log entry 6). -/
def step (s : State) : Host.Outcome State Fault Refusal :=
  match s.status with
  | .running =>
    match fetch s with
    | some i => exec i s
    | none => .fault .fetchOutsideProg
  | .halted => .next (idle s)
  | .faulted => .next (idle s)
  | .decodeFailed => .next (idle s)

/-- `s` with the one instruction of a table row's bits loaded as its program and `pc` at it. It stands for the host's
Load of that program (R160): program memory, `Prog` and STATUS as steps 5 and 6 of R180 leave them, `pc` at the entry
point 0; registers, OUT and FAULT are kept (log entry 2). -/
def State.withFetchWord (s : State) (nbits w : Nat) : State :=
  storeProgram (tableElems nbits w) (setPc 0 s)

end Sys2Proof.Machine
end

