-- ==== Sys2Proof/Machine/Text.lean ====
section
/-! DEFINITION. The text forms of the spec: the rendering of `OUT` (44_output.md rule R141) and the two program
listings (30_encoding.md rules R74 and R75). Host-side views; the engine stores digits and elements, not text. -/

namespace Sys2Proof.Machine

/-- A number 0 to 255 in decimal, without leading zeros. -/
def decimalChars (n : Nat) : List Char :=
  let digit (k : Nat) : Char := Char.ofNat (48 + k % 10)
  if n < 10 then [digit n]
  else if n < 100 then [digit (n / 10), digit n]
  else [digit (n / 100), digit (n / 10), digit n]

/-- Pieces of text joined by one character. -/
def joinChars (sep : Char) : List (List Char) → List Char
  | [] => []
  | [t] => t
  | t :: ts => t ++ sep :: joinChars sep ts

/-- `OUT` in order, in decimal, joined by `,` with no spaces; empty for an empty `OUT` (R141). -/
def renderOut (ds : List U3) : String := String.ofList (joinChars ',' (ds.map fun d => decimalChars d.toNat))

/-- The canonical program text of R74: the raw elements in decimal, joined by `,`. -/
def rawListing (raw : List Elem) : String := String.ofList (joinChars ',' (raw.map fun e => decimalChars e.toNat))

/-- One line of R74's readable listing: the mnemonic, a space, and `x` in decimal (bxc's too). -/
def instrListing (i : Instr) : String := i.mnemonic ++ String.ofList (' ' :: decimalChars i.operand.toNat)

/-- R74's readable listing, one instruction on each line; no labels, no directives (R75). -/
def programListing (p : List Instr) : String :=
  String.ofList (joinChars '\n' (p.map fun i => (instrListing i).toList))

end Sys2Proof.Machine
end

