-- ==== Sys2Proof/Machine/Observe.lean ====
section
/-! DEFINITION. Observe (60_exceptions.md rules R162 and R163, 40_execution_loop.md rule R101). -/

namespace Sys2Proof.Machine

/-- Observe-output: the digits as a sequence and as text, marked by STATUS (R162). -/
structure OutputView where
  status : Status
  digits : List U3
  text : String
  deriving DecidableEq, Repr

/-- Observe-state: "the rest" of R162. The final values are `none` until the run has ended. -/
structure StateView where
  status : Status
  fault : FaultRecord
  /-- the final `x[A]`, `x[B]`, `x[C]` and `pc` -/
  final : Option (Word × Word × Word × Nat)
  deriving DecidableEq, Repr

/-- Whether an observed output is a completed run's: only Halted is (R162). -/
def OutputView.completed (v : OutputView) : Bool := v.status == .halted

/-- Observe-output. A run that has not ended has no result (R101); a Faulted one gives the digits emitted before the
fault, marked Faulted (R162); after a failed Load, `OUT` is empty (R152; log entry 10). -/
def observeOutput (s : State) : Option OutputView :=
  if s.status.terminal then some { status := s.status, digits := s.out, text := renderOut s.out } else none

/-- Observe-state: STATUS, FAULT and the final registers and pointer (R162; log entry 10). -/
def observeState (s : State) : StateView where
  status := s.status
  fault := s.fault
  final := if s.status.terminal then some (s.a, s.b, s.c, s.pc) else none

end Sys2Proof.Machine
end

