-- ==== Sys2Proof/Machine/Run.lean ====
section
/-! DEFINITION. Run under fuel (60_exceptions.md rule R161, 70_reset_and_hazards.md rule R187). The fuel belongs to the
runner and is no state of the engine. -/

namespace Sys2Proof.Machine

/-- What a runner can say after its fuel (R163, R187). -/
inductive RunVerdict where
  /-- STATUS is terminal: the run has ended in this state (R101) -/
  | ended (s : State)
  /-- the fuel is spent and STATUS is Running: "not ended yet", neither a halt nor a fault (R187) -/
  | notEnded (s : State)
  /-- a step stopped outside the engine's own faults; under `Sys2Proof.Inv` this does not happen -/
  | stuck (r : Fault)
  /-- a step was refused; no step is -/
  | refused (r : Refusal)
  deriving DecidableEq, Repr

/-- Step for as long as STATUS is Running, at most `fuel` times (R161, R187). -/
def runFor : Nat → State → RunVerdict
  | 0, s => if s.status.terminal then .ended s else .notEnded s
  | fuel + 1, s =>
    if s.status.terminal then .ended s
    else
      match step s with
      | .next t => runFor fuel t
      | .fault r => .stuck r
      | .refused r => .refused r

end Sys2Proof.Machine
end

