-- ==== Sys2Proof/WellFormed.lean ====
section
/-! DEFINITION. Well-formedness. An `Instr` carries a 3-bit operand, so every term of it has an encoding; what can be
ill-formed is a raw program (the contract "each element in range 0–7, even length", 20_memory.md rule R40 and
70_reset_and_hazards.md rule R183), and what is reserved is a combo operand of 7 (30_encoding.md rule R71). -/

namespace Sys2Proof

/-- The raw length is even (R67's check). -/
def RawProgram.evenLength (raw : List Elem) : Bool := raw.length % 2 == 0

/-- Every element in an opcode position is 0 to 7 (R68's check). -/
def RawProgram.opcodesInRange : List Elem → Bool
  | [] => true
  | [_] => true
  | e0 :: _ :: rest => decide (e0.toNat < 8) && RawProgram.opcodesInRange rest

/-- Every element in an operand position is 0 to 7 (R69's check). -/
def RawProgram.operandsInRange : List Elem → Bool
  | [] => true
  | [_] => true
  | _ :: e1 :: rest => decide (e1.toNat < 8) && RawProgram.operandsInRange rest

/-- The interface contract of a raw program: "each element in range 0–7, even length" (R40, R183). -/
def RawProgram.inContract (raw : List Elem) : Bool :=
  RawProgram.evenLength raw && RawProgram.opcodesInRange raw && RawProgram.operandsInRange raw

/-- The reserved encodings of R71: `x = 7` under a combo opcode. They decode, and fault when executed. -/
def Instr.reserved (i : Instr) : Bool :=
  i.operandKind == .combo && i.operand == 7#3

end Sys2Proof
end

