-- ==== Sys2Proof/Safety.lean ====
section
/-! DEFINITION. The terms the statements use: the invariant of the engine's states, and what counts as a safe run. -/

namespace Sys2Proof

open Sys2Proof.Machine

/-- The states a Load and the steps after it can leave. Each field cites the rule it comes from. -/
structure Inv (s : State) : Prop where
  /-- raw program memory keeps its canonical form (R40) -/
  memWf : s.mem.wf = true
  /-- `Prog` is what Decode gives for raw program memory, from Load to the end of the run (R31, R66) -/
  progDecoded : s.status ≠ .decodeFailed → decodeProgram s.mem.elems = .ok s.prog
  /-- Running: the pointer is within the program (R27, R91) -/
  runningInside : s.status = .running → s.pc < s.prog.length
  /-- Halted: the pointer is at or beyond the program length (R27, R95) -/
  haltedOutside : s.status = .halted → s.prog.length ≤ s.pc
  /-- the pointer never passes `max(N, 3)` (R25) -/
  pcBound : s.pc ≤ max s.prog.length 3
  /-- Running and Halted: FAULT holds its "no fault" values (R28) -/
  noFault : s.status = .running ∨ s.status = .halted → s.fault = FaultRecord.clear
  /-- Faulted: FAULT records an execution cause, the pointer, and the raw elements of `Prog[pc]` (R151) -/
  faultedRecord : s.status = .faulted →
    s.fault.cause.isExecution = true ∧ s.fault.index = s.pc ∧
      ∃ i, s.prog[s.pc]? = some i ∧ s.fault.opcode = encodeOpcode i ∧ s.fault.operand = encodeOperand i
  /-- ShiftOverflow is raised only where `SHIFT_POLICY` is Fault (R110, R150) -/
  overflowPolicy : s.fault.cause = .shiftOverflow → s.config.shiftPolicy = .fault
  /-- DecodeFailed: FAULT is what Decode raised, no step ran and OUT is empty (R152) -/
  decodeFailedRecord : s.status = .decodeFailed →
    decodeProgram s.mem.elems = .error s.fault ∧ s.pc = 0 ∧ s.out = []

/-- A completed run: only Halted is normal completion (R95, R162). -/
def Completed (s : State) : Prop := s.status = .halted

/-- A safe state: the engine goes on or has completed; it has not faulted and did not fail to decode. -/
def Safe (s : State) : Prop := s.status = .running ∨ s.status = .halted

/-- STATUS after an instruction that completes in a Running state and leaves the pointer at `pc` (R95). -/
def haltStatus (s : State) (pc : Nat) : Status :=
  if s.prog.length ≤ pc then .halted else s.status

/-- The state an execution fault leaves (R151): STATUS Faulted, FAULT recording the cause, the pointer and the raw
pair `opcode, operand`; every other piece of state as before. -/
def faultedBy (cause : FaultCause) (opcode operand : Elem) (s : State) : State :=
  { s with
    status := .faulted
    fault := { cause := cause, index := s.pc, opcode := opcode, operand := operand } }

/-- A finite sequence of digits that `later` extends (R30, R101). -/
def Extends (earlier later : List U3) : Prop := ∃ digits, later = earlier ++ digits

end Sys2Proof
end

