-- ==== Sys2Proof/Certificates/Slice0/Obligations.lean ====
section
/-! DEFINITION. The statements for the provers. Every docstring names the rule of spec/ it formalises. Instruction
results are written as the whole next state, a record update of the state before, so that each says its frame too:
every field it does not name is unchanged. -/

open Sys2Proof Sys2Proof.Machine

/-! ### Encoding and decoding -/

/-- R61, R62, R63, R66: a raw program decodes to `p` exactly when it is the encoding of `p`; every encoding has one
meaning and every meaning one encoding, for programs of any length. -/
def Obligations.ProgramDecodesIffEncoded : Prop :=
  ∀ (raw : List Elem) (p : List Instr), decodeProgram raw = .ok p ↔ raw = encodeProgram p

/-- R61, R63: the same on the 16-bit view, for every word and every instruction with every operand. -/
def Obligations.WordDecodesIffEncoded : Prop :=
  ∀ (w : BitVec 16) (i : Instr), decodeWord w = .ok i ↔ w = encodeWord i

/-- R61, R63: the word of each instruction is its opcode in bits 15:8, zeros in 7:3, the operand in 2:0. -/
def Obligations.EncodingFollowsOpcodeMap : Prop :=
  ∀ x : U3,
    encodeWord (.adv x) = 0#8 ++ (0#5 ++ x) ∧ encodeWord (.bxl x) = 1#8 ++ (0#5 ++ x) ∧
    encodeWord (.bst x) = 2#8 ++ (0#5 ++ x) ∧ encodeWord (.jnz x) = 3#8 ++ (0#5 ++ x) ∧
    encodeWord (.bxc x) = 4#8 ++ (0#5 ++ x) ∧ encodeWord (.out x) = 5#8 ++ (0#5 ++ x) ∧
    encodeWord (.bdv x) = 6#8 ++ (0#5 ++ x) ∧ encodeWord (.cdv x) = 7#8 ++ (0#5 ++ x)

/-- Words written out from the format of R61 and the map of R63, one for each opcode. -/
def Obligations.KnownWordsDecode : Prop :=
  decodeWord 0b0000000000000001#16 = .ok (.adv 1) ∧ decodeWord 0b0000000100000111#16 = .ok (.bxl 7) ∧
  decodeWord 0b0000001000000100#16 = .ok (.bst 4) ∧ decodeWord 0b0000001100000000#16 = .ok (.jnz 0) ∧
  decodeWord 0b0000010000000011#16 = .ok (.bxc 3) ∧ decodeWord 0b0000010100000100#16 = .ok (.out 4) ∧
  decodeWord 0b0000011000000101#16 = .ok (.bdv 5) ∧ decodeWord 0b0000011100000110#16 = .ok (.cdv 6)

/-- R67: an odd raw length is a decode fault OddLength, whatever the elements, recorded as R66 passes it. -/
def Obligations.OddLengthFailsDecode : Prop :=
  ∀ raw : List Elem, raw.length % 2 = 1 →
    decodeProgram raw = .error { cause := .oddLength, index := raw.length / 2, opcode := 0, operand := 0 }

/-- R66, R68, R69, R155 (b): after any decodable pairs, the first bad pair is the one reported, InvalidOpcode before
OperandOutOfRange within it, with its index and its two raw elements; whatever follows it. -/
def Obligations.FirstBadPairIsReported : Prop :=
  ∀ (p : List Instr) (e0 e1 : Elem) (rest : List Elem),
    rest.length % 2 = 0 → 8 ≤ e0.toNat ∨ 8 ≤ e1.toNat →
      decodeProgram (encodeProgram p ++ e0 :: e1 :: rest) =
        .error { cause := if 8 ≤ e0.toNat then .invalidOpcode else .operandOutOfRange
                 index := p.length, opcode := e0, operand := e1 }

/-- R72: decode is total. A raw sequence within the contract gives a program of length `L div 2`; any other gives one
decode fault, with a decode cause and an index no greater than `L div 2`. -/
def Obligations.DecodeIsTotal : Prop :=
  ∀ raw : List Elem,
    (RawProgram.inContract raw = true → ∃ p, decodeProgram raw = .ok p ∧ p.length = raw.length / 2) ∧
    (RawProgram.inContract raw = false →
      ∃ f, decodeProgram raw = .error f ∧ f.cause.isDecode = true ∧ f.index ≤ raw.length / 2)

/-- R62: instruction `i` of a decoded program is what the pair (MemRead(2i, 1), MemRead(2i+1, 1)) of the stored raw
program decodes to, its first element the opcode and its second the operand. -/
def Obligations.InstructionIsItsRawPair : Prop :=
  ∀ (raw : List Elem) (p : List Instr), decodeProgram raw = .ok p →
    ∀ (i : Nat) (ins : Instr), p[i]? = some ins →
      (Memory.ofElems raw).read (2 * i) = some (encodeOpcode ins) ∧
      (Memory.ofElems raw).read (2 * i + 1) = some (encodeOperand ins) ∧
      decodePair (encodeOpcode ins) (encodeOperand ins) = .ok ins

/-! ### Load and reset -/

/-- R160, R180, R181: what Load leaves, for every state before it. On a decoded program the whole state; on a failed
decode everything but `Prog`, whose value R34 calls immaterial, and it too is the same for every state before. Only
the build-time configuration is kept, so all state of an earlier run is discarded. -/
def Obligations.LoadSetsWholeState : Prop :=
  ∀ (a0 b0 c0 : Word) (raw : List Elem),
    (∀ p, decodeProgram raw = .ok p → ∀ s : State,
      load a0 b0 c0 raw s =
        { a := a0, b := b0, c := c0, pc := 0
          status := if p.length = 0 then .halted else .running
          fault := { cause := .none, index := 0, opcode := 0, operand := 0 }
          out := [], prog := p, mem := Memory.ofElems raw, config := s.config }) ∧
    (∀ f, decodeProgram raw = .error f → ∃ leftover, ∀ s : State,
      load a0 b0 c0 raw s =
        { a := a0, b := b0, c := c0, pc := 0, status := .decodeFailed, fault := f
          out := [], prog := leftover, mem := Memory.ofElems raw, config := s.config })

/-- R40, R160 (3): after Load, MemRead at every raw index gives the raw program's element there, and nothing beyond
its end. -/
def Obligations.LoadStoresRawProgram : Prop :=
  ∀ (a0 b0 c0 : Word) (raw : List Elem) (s : State) (k : Nat),
    (load a0 b0 c0 raw s).mem.read k = raw[k]?

/-- The invariant holds after every Load, whether its decode succeeds or fails (R34, R152, R180, R181). -/
def Obligations.InvHoldsAfterLoad : Prop :=
  ∀ (a0 b0 c0 : Word) (raw : List Elem) (s : State), Inv (load a0 b0 c0 raw s)

/-- The invariant holds at `State.reset`. -/
def Obligations.InvHoldsAtReset : Prop := Inv State.reset

/-- The model's choice (log entry 1): its reset state is the state after a Load of three zeros and the empty program
into an engine built with the standard configuration. -/
def Obligations.ResetIsLoadOfEmptyProgram : Prop :=
  ∀ s : State, s.config = Config.standard → State.reset = load 0 0 0 [] s

/-! ### The step -/

/-- R90, R91: while STATUS is Running, a step runs the instruction at `Prog[pc]`, and adds nothing around it. -/
def Obligations.StepRunsFetchedInstruction : Prop :=
  ∀ (s : State) (i : Instr), s.status = .running → s.prog[s.pc]? = some i → step s = exec i s

/-- R62, R66, R90, R91: in a Running state of the invariant, where the raw elements at raw indices `2*pc` and
`2*pc+1` decode to an instruction, a step runs that instruction. -/
def Obligations.StepRunsDecodedRawPair : Prop :=
  ∀ (s : State) (e0 e1 : Elem) (i : Instr), Inv s → s.status = .running →
    s.mem.read (2 * s.pc) = some e0 → s.mem.read (2 * s.pc + 1) = some e1 → decodePair e0 e1 = .ok i →
      step s = exec i s

/-- The model's own reading, not a rule of the spec: that `withFetchWord` stands for a Load of one instruction (at index
0, `pc` at it, STATUS set, OUT and FAULT kept) is log entry 2, and that a table word's high byte is the first raw element
is log entry 17, both DEDUCED. Under them, the instruction of a table word is the one that the next step fetches and
runs; the spec's part is the word's format (R61) and that a Running step executes the instruction at `Prog[pc]` (R90). -/
def Obligations.FetchWordRunsNext : Prop :=
  ∀ (i : Instr) (s : State),
    decodeTableWord 16 (encodeWord i).toNat = some i ∧
    step (s.withFetchWord 16 (encodeWord i).toNat) = exec i (s.withFetchWord 16 (encodeWord i).toNat)

/-- R96, as the model answers it (log entry 3): a terminal state stays frozen. -/
def Obligations.TerminalStatesStayFrozen : Prop :=
  ∀ s : State, s.status = .halted ∨ s.status = .faulted ∨ s.status = .decodeFailed → step s = .next s

/-- The model's choices for what `step`, a total function, answers, not rules of the spec: in a terminal state, where
R96 says the engine has no step, it answers that frozen state as its next state (log entry 3, DEDUCED); in a Running
state with no instruction at `pc`, which R91 rules out and no run reaches, it stops (log entry 6, DESIGN CHOICE). So it
answers a next state exactly where it is not Running outside the program, and it is never refused. The spec's part is
the Running states with an instruction at `pc` (R90). -/
def Obligations.StepAnswersUnlessOutsideProgram : Prop :=
  ∀ s : State,
    ((∃ t, step s = .next t) ↔ ¬(s.status = .running ∧ s.prog.length ≤ s.pc)) ∧ ∀ r, step s ≠ .refused r

/-- Under the invariant `step` answers a next state. In a Running state this is R91, "A fetch always finds an
instruction". In a Halted, Faulted or DecodeFailed state it is the model's reading, not a rule: R96 says the engine has
no step there, and `step` answers the same frozen state (log entry 3, DEDUCED). -/
def Obligations.FetchAlwaysFindsInstruction : Prop :=
  ∀ s : State, Inv s → ∃ t, step s = .next t

/-- Every step keeps the invariant (R25, R27, R28, R31, R42, R91, R95, R151). -/
def Obligations.StepKeepsInv : Prop :=
  ∀ s t : State, Inv s → step s = .next t → Inv t

/-! ### Operands and registers -/

/-- R92: the combo operand's value for each of its eight encodings, from the registers' current values. -/
def Obligations.ComboOperandTable : Prop :=
  ∀ s : State,
    combo s 0 = some 0 ∧ combo s 1 = some 1 ∧ combo s 2 = some 2 ∧ combo s 3 = some 3 ∧
    combo s 4 = some s.a ∧ combo s 5 = some s.b ∧ combo s 6 = some s.c ∧ combo s 7 = none

/-- R20: three independent registers, no aliasing, none hardwired: a write is read back, and changes no other
register. -/
def Obligations.RegistersDoNotAlias : Prop :=
  ∀ (r q : Reg) (v : Word) (s : State), readReg q (writeReg r v s) = if q = r then v else readReg q s

/-- R110: `Shr` for `n <= 63` under both policies, for `n >= 64` under each; and under `Zero` it is `a div 2^n` for
every `n`. -/
def Obligations.ShrFollowsItsDefinition : Prop :=
  ∀ v n : Word,
    (n.toNat ≤ 63 → ∀ policy, shr policy v n = some (v >>> n.toNat)) ∧
    (64 ≤ n.toNat → shr .zero v n = some 0 ∧ shr .fault v n = none) ∧
    shr .zero v n = some (BitVec.ofNat 64 (v.toNat / 2 ^ n.toNat))

/-! ### Instruction results: the whole next state -/

/-- R111 (adv): for every resolved combo operand, A becomes A shifted by it, for both policies beyond the width; and
for the reserved operand 7 the fault is taken. -/
def Obligations.AdvShiftsIntoA : Prop :=
  ∀ (x : U3) (s : State),
    (∀ v, combo s x = some v → v.toNat ≤ 63 →
      exec (.adv x) s =
        .next { s with a := s.a >>> v.toNat, pc := s.pc + 1, status := haltStatus s (s.pc + 1) }) ∧
    (∀ v, combo s x = some v → 64 ≤ v.toNat → s.config.shiftPolicy = .zero →
      exec (.adv x) s = .next { s with a := 0, pc := s.pc + 1, status := haltStatus s (s.pc + 1) }) ∧
    (∀ v, combo s x = some v → 64 ≤ v.toNat → s.config.shiftPolicy = .fault →
      exec (.adv x) s = .next (faultedBy .shiftOverflow 0 (x.setWidth 8) s)) ∧
    (x = 7 → exec (.adv x) s = .next (faultedBy .reservedCombo 0 7 s))

/-- R112 (bdv): as adv, into B; A is the dividend and is not written. -/
def Obligations.BdvShiftsIntoB : Prop :=
  ∀ (x : U3) (s : State),
    (∀ v, combo s x = some v → v.toNat ≤ 63 →
      exec (.bdv x) s =
        .next { s with b := s.a >>> v.toNat, pc := s.pc + 1, status := haltStatus s (s.pc + 1) }) ∧
    (∀ v, combo s x = some v → 64 ≤ v.toNat → s.config.shiftPolicy = .zero →
      exec (.bdv x) s = .next { s with b := 0, pc := s.pc + 1, status := haltStatus s (s.pc + 1) }) ∧
    (∀ v, combo s x = some v → 64 ≤ v.toNat → s.config.shiftPolicy = .fault →
      exec (.bdv x) s = .next (faultedBy .shiftOverflow 6 (x.setWidth 8) s)) ∧
    (x = 7 → exec (.bdv x) s = .next (faultedBy .reservedCombo 6 7 s))

/-- R113 (cdv): as adv, into C; A is the dividend and is not written. -/
def Obligations.CdvShiftsIntoC : Prop :=
  ∀ (x : U3) (s : State),
    (∀ v, combo s x = some v → v.toNat ≤ 63 →
      exec (.cdv x) s =
        .next { s with c := s.a >>> v.toNat, pc := s.pc + 1, status := haltStatus s (s.pc + 1) }) ∧
    (∀ v, combo s x = some v → 64 ≤ v.toNat → s.config.shiftPolicy = .zero →
      exec (.cdv x) s = .next { s with c := 0, pc := s.pc + 1, status := haltStatus s (s.pc + 1) }) ∧
    (∀ v, combo s x = some v → 64 ≤ v.toNat → s.config.shiftPolicy = .fault →
      exec (.cdv x) s = .next (faultedBy .shiftOverflow 7 (x.setWidth 8) s)) ∧
    (x = 7 → exec (.cdv x) s = .next (faultedBy .reservedCombo 7 7 s))

/-- R120 (bxl): B becomes B XOR the zero-extended literal, for every literal, 7 among them. -/
def Obligations.BxlXorsLiteralIntoB : Prop :=
  ∀ (x : U3) (s : State),
    exec (.bxl x) s =
      .next { s with b := s.b ^^^ x.setWidth 64, pc := s.pc + 1, status := haltStatus s (s.pc + 1) }

/-- R121 (bst): B becomes the resolved combo operand modulo 8; for the reserved operand 7 the fault is taken. -/
def Obligations.BstStoresMod8IntoB : Prop :=
  ∀ (x : U3) (s : State),
    (∀ v, combo s x = some v →
      exec (.bst x) s =
        .next { s with b := BitVec.ofNat 64 (v.toNat % 8), pc := s.pc + 1, status := haltStatus s (s.pc + 1) }) ∧
    (x = 7 → exec (.bst x) s = .next (faultedBy .reservedCombo 2 7 s))

/-- R122 (bxc): B becomes B XOR C, for every value of the ignored operand. -/
def Obligations.BxcXorsCIntoB : Prop :=
  ∀ (x : U3) (s : State),
    exec (.bxc x) s = .next { s with b := s.b ^^^ s.c, pc := s.pc + 1, status := haltStatus s (s.pc + 1) }

/-- R130 (jnz): where A is not zero the pointer becomes `x div 2`, not advanced; where A is zero it advances by one.
A target at or beyond the program length halts (R95). -/
def Obligations.JnzJumpsWhenANonzero : Prop :=
  ∀ (x : U3) (s : State),
    (s.a ≠ 0 → exec (.jnz x) s = .next { s with pc := x.toNat / 2, status := haltStatus s (x.toNat / 2) }) ∧
    (s.a = 0 → exec (.jnz x) s = .next { s with pc := s.pc + 1, status := haltStatus s (s.pc + 1) })

/-- R140 (out): exactly one digit, the resolved combo operand modulo 8, is appended at the end of OUT, and no register
is written; for the reserved operand 7 the fault is taken and nothing is appended. -/
def Obligations.OutAppendsOneDigit : Prop :=
  ∀ (x : U3) (s : State),
    (∀ v, combo s x = some v →
      exec (.out x) s =
        .next { s with out := s.out ++ [BitVec.ofNat 3 (v.toNat % 8)], pc := s.pc + 1
                       status := haltStatus s (s.pc + 1) }) ∧
    (x = 7 → exec (.out x) s = .next (faultedBy .reservedCombo 5 7 s))

/-- R93: executing any of the five combo opcodes with operand 7 raises ReservedCombo(index = pc, opcode, operand = 7)
and writes nothing else. -/
def Obligations.ReservedComboIsTaken : Prop :=
  ∀ s : State,
    exec (.adv 7) s = .next (faultedBy .reservedCombo 0 7 s) ∧
    exec (.bst 7) s = .next (faultedBy .reservedCombo 2 7 s) ∧
    exec (.out 7) s = .next (faultedBy .reservedCombo 5 7 s) ∧
    exec (.bdv 7) s = .next (faultedBy .reservedCombo 6 7 s) ∧
    exec (.cdv 7) s = .next (faultedBy .reservedCombo 7 7 s)

/-- R98 with R111, R112 and R121: sources are read before the destination is written. `adv 4` under `Zero` clears A
whatever its value, `bdv 5` shifts by the old B, `bst 5` stores the old B modulo 8. -/
def Obligations.SourcesAreReadBeforeWriting : Prop :=
  ∀ s : State,
    (s.config.shiftPolicy = .zero →
      exec (.adv 4) s = .next { s with a := 0, pc := s.pc + 1, status := haltStatus s (s.pc + 1) }) ∧
    (s.config.shiftPolicy = .zero →
      exec (.bdv 5) s =
        .next { s with b := BitVec.ofNat 64 (s.a.toNat / 2 ^ s.b.toNat), pc := s.pc + 1
                       status := haltStatus s (s.pc + 1) }) ∧
    exec (.bst 5) s =
      .next { s with b := BitVec.ofNat 64 (s.b.toNat % 8), pc := s.pc + 1, status := haltStatus s (s.pc + 1) }

/-- R120's corner cases: `bxl x` keeps bits 63:3 of B, and applied twice restores B. -/
def Obligations.BxlKeepsHighBitsAndUndoesItself : Prop :=
  ∀ (x : U3) (s t u : State), exec (.bxl x) s = .next t → exec (.bxl x) t = .next u →
    t.b >>> 3 = s.b >>> 3 ∧ u.b = s.b

/-! ### Whole-machine rules -/

/-- R97: bxl, jnz and bxc raise no fault, whatever their operand: they leave FAULT alone and do not set Faulted. -/
def Obligations.NonComboInstructionsNeverFault : Prop :=
  ∀ (i : Instr) (s t : State), i.operandKind ≠ .combo → exec i s = .next t →
    t.fault = s.fault ∧ (t.status = .faulted → s.status = .faulted)

/-- R21: A is written by adv alone, B by bxl, bst, bxc and bdv alone, C by cdv alone, and no instruction writes more
than one register. -/
def Obligations.RegistersAreWrittenOnlyByTheirInstructions : Prop :=
  ∀ (i : Instr) (s t : State), exec i s = .next t →
    (t.a ≠ s.a → ∃ x, i = .adv x) ∧
    (t.b ≠ s.b → ∃ x, i = .bxl x ∨ i = .bst x ∨ i = .bxc x ∨ i = .bdv x) ∧
    (t.c ≠ s.c → ∃ x, i = .cdv x)

/-- R42: no instruction writes raw program memory or Prog; nor the build-time configuration (R29). -/
def Obligations.NoInstructionWritesProgram : Prop :=
  ∀ (i : Instr) (s t : State), exec i s = .next t →
    (∀ k, t.mem.read k = s.mem.read k) ∧ t.mem = s.mem ∧ t.prog = s.prog ∧ t.config = s.config

/-- R94: after an instruction of a Running state that does not fault, the pointer is `x div 2` for a taken jnz and
`pc + 1` for everything else. -/
def Obligations.PointerAdvancesUnlessJnzTaken : Prop :=
  ∀ (i : Instr) (s t : State), s.status = .running → exec i s = .next t → t.status ≠ .faulted →
    (∀ x, i = .jnz x → s.a ≠ 0 → t.pc = x.toNat / 2) ∧
    ((∀ x, i = .jnz x → s.a = 0) → t.pc = s.pc + 1)

/-- R95: after an instruction of a Running state that does not fault, the engine is Halted exactly when the pointer
is at or beyond the program length, and Running otherwise. -/
def Obligations.HaltExactlyPastTheEnd : Prop :=
  ∀ (i : Instr) (s t : State), s.status = .running → exec i s = .next t → t.status ≠ .faulted →
    t.status = if t.prog.length ≤ t.pc then .halted else .running

/-- R25: the pointer does not wrap and never passes `max(N, 3)` after a step of a Running state. -/
def Obligations.PointerStaysBounded : Prop :=
  ∀ s t : State, s.status = .running → step s = .next t → t.pc ≤ max t.prog.length 3

/-- R30: the output buffer is append-only; only out appends to it, one digit at a time. -/
def Obligations.OutputIsAppendOnly : Prop :=
  ∀ (i : Instr) (s t : State), exec i s = .next t →
    t.out = s.out ∨ ∃ x d, i = .out x ∧ t.out = s.out ++ [d]

/-- R151: a step of a Running state that ends Faulted has written STATUS and FAULT, the cause an execution cause, the
index the faulting instruction's, the elements its raw pair, and nothing else. -/
def Obligations.ExecutionFaultIsPrecise : Prop :=
  ∀ s t : State, s.status = .running → step s = .next t → t.status = .faulted →
    ∃ i cause, s.prog[s.pc]? = some i ∧ (cause = .reservedCombo ∨ cause = .shiftOverflow) ∧
      t = faultedBy cause (encodeOpcode i) (encodeOperand i) s

/-- R150: ReservedCombo is raised only for a combo operand of 7, ShiftOverflow only by a shift under `SHIFT_POLICY =
Fault` whose operand is a register, so that the two never apply to one step (R155 (c)). -/
def Obligations.FaultCausesFitTheirInstructions : Prop :=
  ∀ (i : Instr) (s t : State), s.status = .running → exec i s = .next t → t.status = .faulted →
    (t.fault.cause = .reservedCombo ∧ i.operandKind = .combo ∧ i.operand = 7) ∨
    (t.fault.cause = .shiftOverflow ∧ s.config.shiftPolicy = .fault ∧
      ∃ x v, (i = .adv x ∨ i = .bdv x ∨ i = .cdv x) ∧ (x = 4 ∨ x = 5 ∨ x = 6) ∧
        combo s x = some v ∧ 64 ≤ v.toNat)

/-- R28: FAULT is written only when STATUS becomes Faulted, among the steps. -/
def Obligations.FaultRecordChangesOnlyOnFaulting : Prop :=
  ∀ s t : State, step s = .next t → t.fault ≠ s.fault → s.status = .running ∧ t.status = .faulted

/-- R99: a step never depends on the contents of OUT. Running it on any other output buffer gives the same next state
but for the buffer, to which the same digits are appended. -/
def Obligations.StepIsIndependentOfOutput : Prop :=
  ∀ (s t : State) (other : List U3), step s = .next t →
    ∃ digits, t.out = s.out ++ digits ∧
      step { s with out := other } = .next { t with out := other ++ digits }

/-! ### Runs -/

/-- R101: the output after any number of steps extends the output before them. -/
def Obligations.OutputGrowsAlongRuns : Prop :=
  ∀ (k : Nat) (s t : State), Host.Core.run Sys2Proof.core k s = .next t → Extends s.out t.out

/-- R161, R163, R187: from a state of the invariant, a run under any fuel either has ended, in a terminal state of the
invariant, or is not ended yet, in a Running state of the invariant; it is never stuck and never refused. -/
def Obligations.RunEndsTerminalOrIsNotEnded : Prop :=
  ∀ (k : Nat) (s : State), Inv s →
    (∃ t, runFor k s = .ended t ∧ t.status.terminal = true ∧ Inv t) ∨
    (∃ t, runFor k s = .notEnded t ∧ t.status = .running ∧ Inv t)

/-- R99, R187: more fuel does not change the end of a run that has ended. -/
def Obligations.EndedRunIgnoresMoreFuel : Prop :=
  ∀ (k j : Nat) (s t : State), runFor k s = .ended t → runFor (k + j) s = .ended t

/-- R100, R130: a taken jnz whose target is its own index is a hang: no fuel ends it, and the state never changes. -/
def Obligations.JnzToItselfNeverEnds : Prop :=
  ∀ (s : State) (x : U3), s.status = .running → s.prog[s.pc]? = some (.jnz x) → s.a ≠ 0 → x.toNat / 2 = s.pc →
    ∀ k, runFor k s = .notEnded s

/-- R71, R93, R110, R150: under `SHIFT_POLICY = Zero`, a run of a program that holds no reserved encoding (no combo
operand of 7) can only end Halted: it never faults, from any safe state and under any fuel. -/
def Obligations.ReservedFreeProgramsOnlyEndHalted : Prop :=
  ∀ (k : Nat) (s t : State), Safe s → s.config.shiftPolicy = .zero → (∀ i ∈ s.prog, i.reserved = false) →
    runFor k s = .ended t → Completed t

/-! ### What the host reads -/

/-- R27, R150: the codes of STATUS and of FAULT.cause. -/
def Obligations.StatusAndCauseCodes : Prop :=
  Status.running.code = 0 ∧ Status.halted.code = 1 ∧ Status.faulted.code = 2 ∧ Status.decodeFailed.code = 3 ∧
  FaultCause.none.code = 0 ∧ FaultCause.invalidOpcode.code = 1 ∧ FaultCause.oddLength.code = 2 ∧
  FaultCause.operandOutOfRange.code = 3 ∧ FaultCause.reservedCombo.code = 4 ∧ FaultCause.shiftOverflow.code = 5

/-- R162, R101: Observe-output of a Halted state is its digits, completed; of a Faulted state the digits emitted before
the fault, not a completed run's; of a Running state nothing. -/
def Obligations.ObservedOutputIsMarked : Prop :=
  ∀ s : State,
    (s.status = .halted →
      ∃ v, observeOutput s = some v ∧ v.digits = s.out ∧ v.text = renderOut s.out ∧ v.completed = true) ∧
    (s.status = .faulted →
      ∃ v, observeOutput s = some v ∧ v.digits = s.out ∧ v.status = .faulted ∧ v.completed = false) ∧
    (s.status = .running → observeOutput s = none)

/-- R141: the rendering of OUT puts the digits in order, in decimal, joined by a comma with no spaces; an empty OUT
renders as the empty string. -/
def Obligations.OutputRendering : Prop :=
  renderOut [] = "" ∧
  (∀ d : U3, (renderOut [d]).toList = [Char.ofNat (48 + d.toNat)]) ∧
  (∀ (d e : U3) (ds : List U3),
    (renderOut (d :: e :: ds)).toList = Char.ofNat (48 + d.toNat) :: ',' :: (renderOut (e :: ds)).toList)
end

