-- ==== Sys2Proof/Laws/Decode.lean ====
section
/-! SUPPORT. What the decoder can do on one pair, and the encoder's elements (30_encoding.md rules R63 and R66). -/

namespace Sys2Proof

open Sys2Proof.Machine (FaultCause FaultRecord)

/-- The opcode map has an instruction exactly for the elements 0 to 7 (R63, R68). -/
theorem instrOf_eq_none_iff (e0 : Elem) (x : U3) : instrOf e0 x = none ↔ 8 ≤ e0.toNat := by
  unfold instrOf
  split <;> simp_all
  omega

/-- Everything one pair can decode to, in R66's order of checks. -/
theorem decodePair_cases (e0 e1 : Elem) :
    (8 ≤ e0.toNat ∧ decodePair e0 e1 = .error .invalidOpcode) ∨
      (e0.toNat < 8 ∧ 8 ≤ e1.toNat ∧ decodePair e0 e1 = .error .operandOutOfRange) ∨
      (e0.toNat < 8 ∧ e1.toNat < 8 ∧
        ∃ i, instrOf e0 (operandField e1) = some i ∧ decodePair e0 e1 = .ok i) := by
  unfold decodePair
  cases h : instrOf e0 (operandField e1) with
  | none => exact .inl ⟨(instrOf_eq_none_iff _ _).1 h, rfl⟩
  | some i =>
    have h0 : e0.toNat < 8 := by
      by_contra hn
      rw [(instrOf_eq_none_iff _ _).2 (by omega)] at h
      cases h
    by_cases h1 : 8 ≤ e1.toNat
    · exact .inr (.inl ⟨h0, h1, by simp [h1]⟩)
    · exact .inr (.inr ⟨h0, by omega, i, rfl, by simp [h1]⟩)

@[simp] theorem encode_length (i : Instr) : (encode i).length = 2 := rfl

@[simp] theorem encodeProgram_nil : encodeProgram [] = [] := rfl

@[simp] theorem encodeProgram_cons (i : Instr) (p : List Instr) :
    encodeProgram (i :: p) = encodeOpcode i :: encodeOperand i :: encodeProgram p := rfl

/-- Instruction `i` occupies two elements, so a program of `N` instructions has `2N` (R73). -/
theorem encodeProgram_length (p : List Instr) : (encodeProgram p).length = 2 * p.length := by
  induction p with
  | nil => rfl
  | cons i p ih => simp [ih]; omega

end Sys2Proof
end

