-- ==== Sys2Proof/Laws/Memory.lean ====
section
/-! SUPPORT. Raw program memory: reading what Load stored, and the canonical form (20_memory.md rules R40 and R42). -/

namespace Sys2Proof.Machine

theorem cellsFrom_length (k : Nat) (raw : List Elem) : (Memory.cellsFrom k raw).length = raw.length := by
  induction raw generalizing k with
  | nil => rfl
  | cons e es ih => simp [Memory.cellsFrom, ih]

theorem cellsFrom_addresses (k : Nat) (raw : List Elem) :
    (Memory.cellsFrom k raw).map Prod.fst = List.range' k raw.length := by
  induction raw generalizing k with
  | nil => rfl
  | cons e es ih => simp [Memory.cellsFrom, ih, List.range'_succ]

theorem cellsFrom_elems (k : Nat) (raw : List Elem) : (Memory.cellsFrom k raw).map Prod.snd = raw := by
  induction raw generalizing k with
  | nil => rfl
  | cons e es ih => simp [Memory.cellsFrom, ih]

theorem cellsFrom_read_below (k n : Nat) (raw : List Elem) (h : n < k) :
    (Memory.cellsFrom k raw).read n = none := by
  induction raw generalizing k with
  | nil => rfl
  | cons e es ih =>
    have hk : k ≠ n := by omega
    simpa [Memory.cellsFrom, Memory.read, hk] using ih (k + 1) (by omega)

theorem cellsFrom_read (k n : Nat) (raw : List Elem) :
    (Memory.cellsFrom k raw).read (k + n) = raw[n]? := by
  induction raw generalizing k n with
  | nil => rfl
  | cons e es ih =>
    cases n with
    | zero => simp [Memory.cellsFrom, Memory.read]
    | succ n =>
      have h := ih (k + 1) n
      rw [show k + 1 + n = k + (n + 1) by omega] at h
      simpa [Memory.cellsFrom, Memory.read] using h

/-- The elements Load stored are the elements it was given. -/
@[simp] theorem ofElems_elems (raw : List Elem) : (Memory.ofElems raw).elems = raw := cellsFrom_elems 0 raw

/-- MemRead of the stored program is indexing into the raw sequence. -/
theorem ofElems_read (raw : List Elem) (n : Nat) : (Memory.ofElems raw).read n = raw[n]? := by
  simpa [Memory.ofElems] using cellsFrom_read 0 n raw

/-- The one memory write, storing a whole raw program, gives the canonical form. -/
theorem ofElems_wf (raw : List Elem) : (Memory.ofElems raw).wf = true := by
  simp [Memory.wf, Memory.ofElems, cellsFrom_addresses, cellsFrom_length, List.range_eq_range']

theorem reset_mem_wf : State.reset.mem.wf = true := by decide

/-- A canonical memory is the stored form of its own elements, so equal memories are equal data. -/
theorem wf_eq_ofElems (m : Memory) (h : m.wf = true) : m = Memory.ofElems m.elems := by
  have hfst : m.map Prod.fst = List.range m.length := by simpa [Memory.wf] using h
  apply List.ext_getElem?
  intro n
  have key : ∀ (k : Nat) (m : Memory), m.map Prod.fst = List.range' k m.length →
      m = Memory.cellsFrom k (m.map Prod.snd) := by
    intro k m
    induction m generalizing k with
    | nil => intro _; rfl
    | cons c cs ih =>
      intro hm
      obtain ⟨addr, e⟩ := c
      simp only [List.map_cons, List.length_cons, List.range'_succ, List.cons.injEq] at hm
      obtain ⟨rfl, hcs⟩ := hm
      simp only [List.map_cons, Memory.cellsFrom]
      rw [← ih _ hcs]
  have := key 0 m (by simpa [List.range_eq_range'] using hfst)
  exact congrArg (·[n]?) this

theorem storeProgram_mem (raw : List Elem) (s : State) : (storeProgram raw s).mem = Memory.ofElems raw := by
  unfold storeProgram
  split <;> rfl

/-- Load keeps the canonical form. -/
theorem load_mem_wf (a0 b0 c0 : Word) (raw : List Elem) (s : State) : (load a0 b0 c0 raw s).mem.wf = true := by
  rw [load, storeProgram_mem]
  exact ofElems_wf raw

end Sys2Proof.Machine
end

