-- ==== Sys2Proof/Laws/State.lean ====
section
/-! SUPPORT. One lemma per field per update, so that no later proof unfolds a record update. -/

namespace Sys2Proof.Machine

@[simp] theorem writeReg_a_a (v : Word) (s : State) : (writeReg .a v s).a = v := rfl
@[simp] theorem writeReg_a_b (v : Word) (s : State) : (writeReg .a v s).b = s.b := rfl
@[simp] theorem writeReg_a_c (v : Word) (s : State) : (writeReg .a v s).c = s.c := rfl
@[simp] theorem writeReg_a_pc (v : Word) (s : State) : (writeReg .a v s).pc = s.pc := rfl
@[simp] theorem writeReg_a_status (v : Word) (s : State) : (writeReg .a v s).status = s.status := rfl
@[simp] theorem writeReg_a_fault (v : Word) (s : State) : (writeReg .a v s).fault = s.fault := rfl
@[simp] theorem writeReg_a_out (v : Word) (s : State) : (writeReg .a v s).out = s.out := rfl
@[simp] theorem writeReg_a_prog (v : Word) (s : State) : (writeReg .a v s).prog = s.prog := rfl
@[simp] theorem writeReg_a_mem (v : Word) (s : State) : (writeReg .a v s).mem = s.mem := rfl
@[simp] theorem writeReg_a_config (v : Word) (s : State) : (writeReg .a v s).config = s.config := rfl

@[simp] theorem writeReg_b_a (v : Word) (s : State) : (writeReg .b v s).a = s.a := rfl
@[simp] theorem writeReg_b_b (v : Word) (s : State) : (writeReg .b v s).b = v := rfl
@[simp] theorem writeReg_b_c (v : Word) (s : State) : (writeReg .b v s).c = s.c := rfl
@[simp] theorem writeReg_b_pc (v : Word) (s : State) : (writeReg .b v s).pc = s.pc := rfl
@[simp] theorem writeReg_b_status (v : Word) (s : State) : (writeReg .b v s).status = s.status := rfl
@[simp] theorem writeReg_b_fault (v : Word) (s : State) : (writeReg .b v s).fault = s.fault := rfl
@[simp] theorem writeReg_b_out (v : Word) (s : State) : (writeReg .b v s).out = s.out := rfl
@[simp] theorem writeReg_b_prog (v : Word) (s : State) : (writeReg .b v s).prog = s.prog := rfl
@[simp] theorem writeReg_b_mem (v : Word) (s : State) : (writeReg .b v s).mem = s.mem := rfl
@[simp] theorem writeReg_b_config (v : Word) (s : State) : (writeReg .b v s).config = s.config := rfl

@[simp] theorem writeReg_c_a (v : Word) (s : State) : (writeReg .c v s).a = s.a := rfl
@[simp] theorem writeReg_c_b (v : Word) (s : State) : (writeReg .c v s).b = s.b := rfl
@[simp] theorem writeReg_c_c (v : Word) (s : State) : (writeReg .c v s).c = v := rfl
@[simp] theorem writeReg_c_pc (v : Word) (s : State) : (writeReg .c v s).pc = s.pc := rfl
@[simp] theorem writeReg_c_status (v : Word) (s : State) : (writeReg .c v s).status = s.status := rfl
@[simp] theorem writeReg_c_fault (v : Word) (s : State) : (writeReg .c v s).fault = s.fault := rfl
@[simp] theorem writeReg_c_out (v : Word) (s : State) : (writeReg .c v s).out = s.out := rfl
@[simp] theorem writeReg_c_prog (v : Word) (s : State) : (writeReg .c v s).prog = s.prog := rfl
@[simp] theorem writeReg_c_mem (v : Word) (s : State) : (writeReg .c v s).mem = s.mem := rfl
@[simp] theorem writeReg_c_config (v : Word) (s : State) : (writeReg .c v s).config = s.config := rfl

@[simp] theorem readReg_a (s : State) : readReg .a s = s.a := rfl
@[simp] theorem readReg_b (s : State) : readReg .b s = s.b := rfl
@[simp] theorem readReg_c (s : State) : readReg .c s = s.c := rfl

@[simp] theorem setPc_a (n : Nat) (s : State) : (setPc n s).a = s.a := rfl
@[simp] theorem setPc_b (n : Nat) (s : State) : (setPc n s).b = s.b := rfl
@[simp] theorem setPc_c (n : Nat) (s : State) : (setPc n s).c = s.c := rfl
@[simp] theorem setPc_pc (n : Nat) (s : State) : (setPc n s).pc = n := rfl
@[simp] theorem setPc_status (n : Nat) (s : State) : (setPc n s).status = s.status := rfl
@[simp] theorem setPc_fault (n : Nat) (s : State) : (setPc n s).fault = s.fault := rfl
@[simp] theorem setPc_out (n : Nat) (s : State) : (setPc n s).out = s.out := rfl
@[simp] theorem setPc_prog (n : Nat) (s : State) : (setPc n s).prog = s.prog := rfl
@[simp] theorem setPc_mem (n : Nat) (s : State) : (setPc n s).mem = s.mem := rfl
@[simp] theorem setPc_config (n : Nat) (s : State) : (setPc n s).config = s.config := rfl

@[simp] theorem emit_a (d : U3) (s : State) : (emit d s).a = s.a := rfl
@[simp] theorem emit_b (d : U3) (s : State) : (emit d s).b = s.b := rfl
@[simp] theorem emit_c (d : U3) (s : State) : (emit d s).c = s.c := rfl
@[simp] theorem emit_pc (d : U3) (s : State) : (emit d s).pc = s.pc := rfl
@[simp] theorem emit_status (d : U3) (s : State) : (emit d s).status = s.status := rfl
@[simp] theorem emit_fault (d : U3) (s : State) : (emit d s).fault = s.fault := rfl
@[simp] theorem emit_out (d : U3) (s : State) : (emit d s).out = s.out ++ [d] := rfl
@[simp] theorem emit_prog (d : U3) (s : State) : (emit d s).prog = s.prog := rfl
@[simp] theorem emit_mem (d : U3) (s : State) : (emit d s).mem = s.mem := rfl
@[simp] theorem emit_config (d : U3) (s : State) : (emit d s).config = s.config := rfl

@[simp] theorem idle_a (s : State) : (idle s).a = s.a := rfl
@[simp] theorem idle_b (s : State) : (idle s).b = s.b := rfl
@[simp] theorem idle_c (s : State) : (idle s).c = s.c := rfl
@[simp] theorem idle_pc (s : State) : (idle s).pc = s.pc := rfl
@[simp] theorem idle_status (s : State) : (idle s).status = s.status := rfl
@[simp] theorem idle_fault (s : State) : (idle s).fault = s.fault := rfl
@[simp] theorem idle_out (s : State) : (idle s).out = s.out := rfl
@[simp] theorem idle_prog (s : State) : (idle s).prog = s.prog := rfl
@[simp] theorem idle_mem (s : State) : (idle s).mem = s.mem := rfl
@[simp] theorem idle_config (s : State) : (idle s).config = s.config := rfl

@[simp] theorem raise_a (cause : FaultCause) (i : Instr) (s : State) : (raise cause i s).a = s.a := rfl
@[simp] theorem raise_b (cause : FaultCause) (i : Instr) (s : State) : (raise cause i s).b = s.b := rfl
@[simp] theorem raise_c (cause : FaultCause) (i : Instr) (s : State) : (raise cause i s).c = s.c := rfl
@[simp] theorem raise_pc (cause : FaultCause) (i : Instr) (s : State) : (raise cause i s).pc = s.pc := rfl
@[simp] theorem raise_status (cause : FaultCause) (i : Instr) (s : State) : (raise cause i s).status = .faulted := rfl
@[simp] theorem raise_fault (cause : FaultCause) (i : Instr) (s : State) : (raise cause i s).fault = 
    { cause := cause, index := s.pc, opcode := encodeOpcode i, operand := encodeOperand i } := rfl
@[simp] theorem raise_out (cause : FaultCause) (i : Instr) (s : State) : (raise cause i s).out = s.out := rfl
@[simp] theorem raise_prog (cause : FaultCause) (i : Instr) (s : State) : (raise cause i s).prog = s.prog := rfl
@[simp] theorem raise_mem (cause : FaultCause) (i : Instr) (s : State) : (raise cause i s).mem = s.mem := rfl
@[simp] theorem raise_config (cause : FaultCause) (i : Instr) (s : State) : (raise cause i s).config = s.config := rfl

@[simp] theorem raiseDecode_a (f : FaultRecord) (s : State) : (raiseDecode f s).a = s.a := rfl
@[simp] theorem raiseDecode_b (f : FaultRecord) (s : State) : (raiseDecode f s).b = s.b := rfl
@[simp] theorem raiseDecode_c (f : FaultRecord) (s : State) : (raiseDecode f s).c = s.c := rfl
@[simp] theorem raiseDecode_pc (f : FaultRecord) (s : State) : (raiseDecode f s).pc = s.pc := rfl
@[simp] theorem raiseDecode_status (f : FaultRecord) (s : State) : (raiseDecode f s).status = .decodeFailed := rfl
@[simp] theorem raiseDecode_fault (f : FaultRecord) (s : State) : (raiseDecode f s).fault = f := rfl
@[simp] theorem raiseDecode_out (f : FaultRecord) (s : State) : (raiseDecode f s).out = s.out := rfl
@[simp] theorem raiseDecode_prog (f : FaultRecord) (s : State) : (raiseDecode f s).prog = [] := rfl
@[simp] theorem raiseDecode_mem (f : FaultRecord) (s : State) : (raiseDecode f s).mem = s.mem := rfl
@[simp] theorem raiseDecode_config (f : FaultRecord) (s : State) : (raiseDecode f s).config = s.config := rfl

@[simp] theorem clearFor_a (a0 b0 c0 : Word) (s : State) : (clearFor a0 b0 c0 s).a = a0 := rfl
@[simp] theorem clearFor_b (a0 b0 c0 : Word) (s : State) : (clearFor a0 b0 c0 s).b = b0 := rfl
@[simp] theorem clearFor_c (a0 b0 c0 : Word) (s : State) : (clearFor a0 b0 c0 s).c = c0 := rfl
@[simp] theorem clearFor_pc (a0 b0 c0 : Word) (s : State) : (clearFor a0 b0 c0 s).pc = 0 := rfl
@[simp] theorem clearFor_status (a0 b0 c0 : Word) (s : State) : (clearFor a0 b0 c0 s).status = s.status := rfl
@[simp] theorem clearFor_fault (a0 b0 c0 : Word) (s : State) : (clearFor a0 b0 c0 s).fault = FaultRecord.clear := rfl
@[simp] theorem clearFor_out (a0 b0 c0 : Word) (s : State) : (clearFor a0 b0 c0 s).out = [] := rfl
@[simp] theorem clearFor_prog (a0 b0 c0 : Word) (s : State) : (clearFor a0 b0 c0 s).prog = s.prog := rfl
@[simp] theorem clearFor_mem (a0 b0 c0 : Word) (s : State) : (clearFor a0 b0 c0 s).mem = s.mem := rfl
@[simp] theorem clearFor_config (a0 b0 c0 : Word) (s : State) : (clearFor a0 b0 c0 s).config = s.config := rfl

@[simp] theorem haltTest_a (s : State) : (haltTest s).a = s.a := by
  unfold haltTest; split <;> rfl
@[simp] theorem haltTest_b (s : State) : (haltTest s).b = s.b := by
  unfold haltTest; split <;> rfl
@[simp] theorem haltTest_c (s : State) : (haltTest s).c = s.c := by
  unfold haltTest; split <;> rfl
@[simp] theorem haltTest_pc (s : State) : (haltTest s).pc = s.pc := by
  unfold haltTest; split <;> rfl
@[simp] theorem haltTest_status (s : State) :
    (haltTest s).status = if s.prog.length ≤ s.pc then .halted else s.status := by
  unfold haltTest; split <;> rfl
@[simp] theorem haltTest_fault (s : State) : (haltTest s).fault = s.fault := by
  unfold haltTest; split <;> rfl
@[simp] theorem haltTest_out (s : State) : (haltTest s).out = s.out := by
  unfold haltTest; split <;> rfl
@[simp] theorem haltTest_prog (s : State) : (haltTest s).prog = s.prog := by
  unfold haltTest; split <;> rfl
@[simp] theorem haltTest_mem (s : State) : (haltTest s).mem = s.mem := by
  unfold haltTest; split <;> rfl
@[simp] theorem haltTest_config (s : State) : (haltTest s).config = s.config := by
  unfold haltTest; split <;> rfl

@[simp] theorem advance_a (s : State) : (advance s).a = s.a := by simp [advance]
@[simp] theorem advance_b (s : State) : (advance s).b = s.b := by simp [advance]
@[simp] theorem advance_c (s : State) : (advance s).c = s.c := by simp [advance]
@[simp] theorem advance_pc (s : State) : (advance s).pc = s.pc + 1 := by simp [advance]
@[simp] theorem advance_status (s : State) :
    (advance s).status = if s.prog.length ≤ s.pc + 1 then .halted else s.status := by
  rw [advance, haltTest_status]; rfl
@[simp] theorem advance_fault (s : State) : (advance s).fault = s.fault := by simp [advance]
@[simp] theorem advance_out (s : State) : (advance s).out = s.out := by simp [advance]
@[simp] theorem advance_prog (s : State) : (advance s).prog = s.prog := by simp [advance]
@[simp] theorem advance_mem (s : State) : (advance s).mem = s.mem := by simp [advance]
@[simp] theorem advance_config (s : State) : (advance s).config = s.config := by simp [advance]

@[simp] theorem jump_a (n : Nat) (s : State) : (jump n s).a = s.a := by simp [jump]
@[simp] theorem jump_b (n : Nat) (s : State) : (jump n s).b = s.b := by simp [jump]
@[simp] theorem jump_c (n : Nat) (s : State) : (jump n s).c = s.c := by simp [jump]
@[simp] theorem jump_pc (n : Nat) (s : State) : (jump n s).pc = n := by simp [jump]
@[simp] theorem jump_status (n : Nat) (s : State) :
    (jump n s).status = if s.prog.length ≤ n then .halted else s.status := by
  rw [jump, haltTest_status]; rfl
@[simp] theorem jump_fault (n : Nat) (s : State) : (jump n s).fault = s.fault := by simp [jump]
@[simp] theorem jump_out (n : Nat) (s : State) : (jump n s).out = s.out := by simp [jump]
@[simp] theorem jump_prog (n : Nat) (s : State) : (jump n s).prog = s.prog := by simp [jump]
@[simp] theorem jump_mem (n : Nat) (s : State) : (jump n s).mem = s.mem := by simp [jump]
@[simp] theorem jump_config (n : Nat) (s : State) : (jump n s).config = s.config := by simp [jump]

end Sys2Proof.Machine
end

