-- ==== Sys2Proof/Laws/Ops.lean ====
section
/-! SUPPORT. For each shared operation, one lemma that says once everything it can do. -/

namespace Sys2Proof.Machine

/-- The combo operand, by cases (R92, R93). -/
theorem combo_cases (s : State) (x : U3) :
    (x.toNat < 4 ∧ combo s x = some (literal x)) ∨ (x = 4#3 ∧ combo s x = some s.a) ∨
      (x = 5#3 ∧ combo s x = some s.b) ∨ (x = 6#3 ∧ combo s x = some s.c) ∨ (x = 7#3 ∧ combo s x = none) := by
  have h : x = 0#3 ∨ x = 1#3 ∨ x = 2#3 ∨ x = 3#3 ∨ x = 4#3 ∨ x = 5#3 ∨ x = 6#3 ∨ x = 7#3 := by
    revert x; decide
  rcases h with rfl | rfl | rfl | rfl | rfl | rfl | rfl | rfl <;> simp [combo, literal]

theorem combo_eq_none_iff (s : State) (x : U3) : combo s x = none ↔ x = 7#3 := by
  constructor
  · intro h
    rcases combo_cases s x with ⟨_, hx⟩ | ⟨_, hx⟩ | ⟨_, hx⟩ | ⟨_, hx⟩ | ⟨hx, _⟩
    · simp [hx] at h
    · simp [hx] at h
    · simp [hx] at h
    · simp [hx] at h
    · exact hx
  · rintro rfl; rfl

/-- A combo instruction's meaning: the reserved operand's fault, or the effect on the resolved value (R90 step 2). -/
theorem withCombo_cases (i : Instr) (x : U3) (s : State) (effect : Word → State) :
    (combo s x = none ∧ withCombo i x s effect = .next (raise .reservedCombo i s)) ∨
      ∃ v, combo s x = some v ∧ withCombo i x s effect = .next (effect v) := by
  unfold withCombo
  cases combo s x with
  | none => exact .inl ⟨rfl, rfl⟩
  | some v => exact .inr ⟨v, rfl, rfl⟩

theorem shr_of_le (policy : ShiftPolicy) (v n : Word) (h : n.toNat ≤ 63) :
    shr policy v n = some (v >>> n.toNat) := by simp [shr, h]

theorem shr_zero_of_gt (v n : Word) (h : 64 ≤ n.toNat) : shr .zero v n = some 0 := by
  simp [shr, show ¬ n.toNat ≤ 63 by omega]

theorem shr_fault_of_gt (v n : Word) (h : 64 ≤ n.toNat) : shr .fault v n = none := by
  simp [shr, show ¬ n.toNat ≤ 63 by omega]

/-- ShiftOverflow needs a shift of 64 or more and the policy Fault (R110). -/
theorem shr_eq_none (policy : ShiftPolicy) (v n : Word) (h : shr policy v n = none) :
    64 ≤ n.toNat ∧ policy = .fault := by
  unfold shr at h
  split at h
  · cases h
  · cases policy with
    | zero => cases h
    | fault => exact ⟨by omega, rfl⟩

/-- The shared execute part of adv, bdv and cdv: overflow, or a write to the destination and the advance. -/
theorem shiftInto_cases (dst : Reg) (i : Instr) (v : Word) (s : State) :
    (shr s.config.shiftPolicy s.a v = none ∧ shiftInto dst i v s = raise .shiftOverflow i s) ∨
      ∃ r, shr s.config.shiftPolicy s.a v = some r ∧ shiftInto dst i v s = advance (writeReg dst r s) := by
  unfold shiftInto
  rw [readReg_a]
  cases shr s.config.shiftPolicy s.a v with
  | none => exact .inl ⟨rfl, rfl⟩
  | some r => exact .inr ⟨r, rfl, rfl⟩

theorem haltTest_eq (s : State) :
    haltTest s = { s with status := if s.prog.length ≤ s.pc then .halted else s.status } := by
  unfold haltTest; split <;> rfl

theorem advance_eq (s : State) :
    advance s =
      { s with pc := s.pc + 1, status := if s.prog.length ≤ s.pc + 1 then .halted else s.status } := by
  rw [advance, haltTest_eq]; rfl

theorem jump_eq (n : Nat) (s : State) :
    jump n s = { s with pc := n, status := if s.prog.length ≤ n then .halted else s.status } := by
  rw [jump, haltTest_eq]; rfl

/-- Storing a program: what each field becomes when it decodes. -/
theorem storeProgram_of_ok (raw : List Elem) (p : List Instr) (s : State) (h : decodeProgram raw = .ok p) :
    storeProgram raw s =
      { s with mem := Memory.ofElems raw, prog := p, status := statusAfterDecode p } := by
  simp [storeProgram, h]

/-- Storing a program: what each field becomes when its decode fails. -/
theorem storeProgram_of_error (raw : List Elem) (f : FaultRecord) (s : State)
    (h : decodeProgram raw = .error f) :
    storeProgram raw s = raiseDecode f { s with mem := Memory.ofElems raw } := by
  simp [storeProgram, h]

/-- Everything `exec` can do when it answers: take an execution fault of a combo instruction, or complete, with the
registers and the output of an intermediate state `u`, the pointer `n`, and the halt test. -/
theorem exec_next_cases (i : Instr) (s t : State) (h : exec i s = .next t) :
    (i.operandKind = .combo ∧ i.operand = 7#3 ∧ t = raise .reservedCombo i s) ∨
      (s.config.shiftPolicy = .fault ∧ (∃ x, i = .adv x ∨ i = .bdv x ∨ i = .cdv x) ∧
        t = raise .shiftOverflow i s) ∨
      (∃ x r, i = .adv x ∧ t = advance (writeReg .a r s)) ∨
      (∃ r, (∃ x, i = .bxl x ∨ i = .bst x ∨ i = .bxc x ∨ i = .bdv x) ∧ t = advance (writeReg .b r s)) ∨
      (∃ x r, i = .cdv x ∧ t = advance (writeReg .c r s)) ∨
      (∃ x d, i = .out x ∧ t = advance (emit d s)) ∨
      (∃ x, i = .jnz x ∧ s.a ≠ 0 ∧ t = jump (x.toNat / 2) s) ∨
      (∃ x, i = .jnz x ∧ s.a = 0 ∧ t = advance s) := by
  cases i with
  | adv x =>
    rcases withCombo_cases (.adv x) x s (fun v => shiftInto .a (.adv x) v s) with ⟨hc, hw⟩ | ⟨v, -, hw⟩
    · cases hw.symm.trans h
      exact .inl ⟨rfl, (combo_eq_none_iff s x).1 hc, rfl⟩
    · cases hw.symm.trans h
      rcases shiftInto_cases .a (.adv x) v s with ⟨hn, he⟩ | ⟨r, -, he⟩
      · exact .inr (.inl ⟨(shr_eq_none _ _ _ hn).2, ⟨x, .inl rfl⟩, he⟩)
      · exact .inr (.inr (.inl ⟨x, r, rfl, he⟩))
  | bdv x =>
    rcases withCombo_cases (.bdv x) x s (fun v => shiftInto .b (.bdv x) v s) with ⟨hc, hw⟩ | ⟨v, -, hw⟩
    · cases hw.symm.trans h
      exact .inl ⟨rfl, (combo_eq_none_iff s x).1 hc, rfl⟩
    · cases hw.symm.trans h
      rcases shiftInto_cases .b (.bdv x) v s with ⟨hn, he⟩ | ⟨r, -, he⟩
      · exact .inr (.inl ⟨(shr_eq_none _ _ _ hn).2, ⟨x, .inr (.inl rfl)⟩, he⟩)
      · exact .inr (.inr (.inr (.inl ⟨r, ⟨x, .inr (.inr (.inr rfl))⟩, he⟩)))
  | cdv x =>
    rcases withCombo_cases (.cdv x) x s (fun v => shiftInto .c (.cdv x) v s) with ⟨hc, hw⟩ | ⟨v, -, hw⟩
    · cases hw.symm.trans h
      exact .inl ⟨rfl, (combo_eq_none_iff s x).1 hc, rfl⟩
    · cases hw.symm.trans h
      rcases shiftInto_cases .c (.cdv x) v s with ⟨hn, he⟩ | ⟨r, -, he⟩
      · exact .inr (.inl ⟨(shr_eq_none _ _ _ hn).2, ⟨x, .inr (.inr rfl)⟩, he⟩)
      · exact .inr (.inr (.inr (.inr (.inl ⟨x, r, rfl, he⟩))))
  | bst x =>
    rcases withCombo_cases (.bst x) x s (fun v => advance (writeReg .b ((low3 v).setWidth 64) s)) with
      ⟨hc, hw⟩ | ⟨v, -, hw⟩
    · cases hw.symm.trans h
      exact .inl ⟨rfl, (combo_eq_none_iff s x).1 hc, rfl⟩
    · cases hw.symm.trans h
      exact .inr (.inr (.inr (.inl ⟨_, ⟨x, .inr (.inl rfl)⟩, rfl⟩)))
  | out x =>
    rcases withCombo_cases (.out x) x s (fun v => advance (emit (low3 v) s)) with ⟨hc, hw⟩ | ⟨v, -, hw⟩
    · cases hw.symm.trans h
      exact .inl ⟨rfl, (combo_eq_none_iff s x).1 hc, rfl⟩
    · cases hw.symm.trans h
      exact .inr (.inr (.inr (.inr (.inr (.inl ⟨x, _, rfl, rfl⟩)))))
  | bxl x =>
    cases h
    exact .inr (.inr (.inr (.inl ⟨_, ⟨x, .inl rfl⟩, rfl⟩)))
  | bxc x =>
    cases h
    exact .inr (.inr (.inr (.inl ⟨_, ⟨x, .inr (.inr (.inl rfl))⟩, rfl⟩)))
  | jnz x =>
    by_cases ha : s.a = 0
    · have ht : t = advance s := by
        have hz : aNonzero s = false := by simp [aNonzero, ha]
        have : exec (.jnz x) s = .next (advance s) := by simp [exec, execJnz, hz]
        cases this.symm.trans h; rfl
      exact .inr (.inr (.inr (.inr (.inr (.inr (.inr ⟨x, rfl, ha, ht⟩))))))
    · have ht : t = jump (x.toNat / 2) s := by
        have hz : aNonzero s = true := by simpa [aNonzero] using ha
        have : exec (.jnz x) s = .next (jump (x.toNat / 2) s) := by
          simp [exec, execJnz, hz, jumpTarget]
        cases this.symm.trans h; rfl
      exact .inr (.inr (.inr (.inr (.inr (.inr (.inl ⟨x, rfl, ha, ht⟩))))))

/-- Everything `step` can do when it answers (R90, R96). -/
theorem step_next_cases (s t : State) (h : step s = .next t) :
    (s.status = .running ∧ ∃ i, s.prog[s.pc]? = some i ∧ exec i s = .next t) ∨
      (s.status ≠ .running ∧ t = s) := by
  unfold step at h
  cases hs : s.status with
  | running =>
    rw [hs] at h
    cases hf : fetch s with
    | none => rw [hf] at h; cases h
    | some i => rw [hf] at h; exact .inl ⟨rfl, i, hf, h⟩
  | halted => rw [hs] at h; cases h; exact .inr ⟨by simp, rfl⟩
  | faulted => rw [hs] at h; cases h; exact .inr ⟨by simp, rfl⟩
  | decodeFailed => rw [hs] at h; cases h; exact .inr ⟨by simp, rfl⟩

end Sys2Proof.Machine
end

