-- ==== Sys2Proof/Laws/PerInstr.lean ====
section
/-! SUPPORT. Families of lemmas with one lemma per constructor of `Instr`. -/

namespace Sys2Proof.Laws

/-- The raw elements of an instruction meet the interface contract, each element in 0 to 7 (20_memory.md rule R40). -/
def EncodingInContract.Statement (i : Instr) : Prop := RawProgram.inContract (encode i) = true

theorem EncodingInContract.adv (x : U3) : EncodingInContract.Statement (.adv x) := by
  revert x; unfold EncodingInContract.Statement; decide

theorem EncodingInContract.bxl (x : U3) : EncodingInContract.Statement (.bxl x) := by
  revert x; unfold EncodingInContract.Statement; decide

theorem EncodingInContract.bst (x : U3) : EncodingInContract.Statement (.bst x) := by
  revert x; unfold EncodingInContract.Statement; decide

theorem EncodingInContract.jnz (x : U3) : EncodingInContract.Statement (.jnz x) := by
  revert x; unfold EncodingInContract.Statement; decide

theorem EncodingInContract.bxc (x : U3) : EncodingInContract.Statement (.bxc x) := by
  revert x; unfold EncodingInContract.Statement; decide

theorem EncodingInContract.out (x : U3) : EncodingInContract.Statement (.out x) := by
  revert x; unfold EncodingInContract.Statement; decide

theorem EncodingInContract.bdv (x : U3) : EncodingInContract.Statement (.bdv x) := by
  revert x; unfold EncodingInContract.Statement; decide

theorem EncodingInContract.cdv (x : U3) : EncodingInContract.Statement (.cdv x) := by
  revert x; unfold EncodingInContract.Statement; decide

end Sys2Proof.Laws
end

