-- ==== Sys2Proof/Tests/Slice0.lean ====
section
/-! SUPPORT. The model's own tests. Expected values are the spec's (95_test_vectors.md, the vector's id in the name)
or written out from the encoding tables; then, for each statement that has hypotheses, a concrete witness. -/

namespace Sys2Proof.Tests

open Sys2Proof.Machine

/-! ### Well-formedness: each check refuses an ill-formed term -/

theorem test_wf_refuses_odd_length : RawProgram.evenLength [0, 1, 5] = false := by decide
theorem test_wf_refuses_opcode_8 : RawProgram.opcodesInRange [0, 1, 8, 0] = false := by decide
theorem test_wf_refuses_operand_8 : RawProgram.operandsInRange [0, 1, 0, 8] = false := by decide
theorem test_wf_reserved_combo : (Instr.adv 7).reserved = true ∧ (Instr.bxc 7).reserved = false := by decide
theorem test_wf_contract : RawProgram.inContract [7, 7, 0, 0, 3, 7] = true := by decide

/-! ### Decoding: one word for each opcode, written out bit by bit from R61 and R63 -/

theorem test_decode_adv : decodeWord 0b00000000_00000_101#16 = .ok (.adv 5) := by decide
theorem test_decode_bxl : decodeWord 0b00000001_00000_011#16 = .ok (.bxl 3) := by decide
theorem test_decode_bst : decodeWord 0b00000010_00000_100#16 = .ok (.bst 4) := by decide
theorem test_decode_jnz : decodeWord 0b00000011_00000_110#16 = .ok (.jnz 6) := by decide
theorem test_decode_bxc : decodeWord 0b00000100_00000_001#16 = .ok (.bxc 1) := by decide
theorem test_decode_out : decodeWord 0b00000101_00000_111#16 = .ok (.out 7) := by decide
theorem test_decode_bdv : decodeWord 0b00000110_00000_010#16 = .ok (.bdv 2) := by decide
theorem test_decode_cdv : decodeWord 0b00000111_00000_110#16 = .ok (.cdv 6) := by decide
theorem test_decode_refuses_opx : decodeWord 0b00000000_00001_000#16 = .error .operandOutOfRange := by decide
theorem test_decode_refuses_opcode_8 : decodeWord 0b00001000_00000_000#16 = .error .invalidOpcode := by decide

theorem test_decode_S5 : decodeProgram [7, 7, 0, 0, 3, 7] = .ok [.cdv 7, .adv 0, .jnz 7] := by decide
theorem test_decode_S5_bad :
    decodeProgram [0, 1, 255, 0] =
      .error { cause := .invalidOpcode, index := 1, opcode := 255, operand := 0 } := by decide
theorem test_decode_L3 :
    decodeProgram [9, 1, 5] = .error { cause := .oddLength, index := 1, opcode := 0, operand := 0 } := by decide
theorem test_decode_L6 :
    decodeProgram [0, 1, 0, 9, 8, 0] =
      .error { cause := .operandOutOfRange, index := 1, opcode := 0, operand := 9 } := by decide

theorem test_table_word : decodeTableWord 16 0x0604 = some (.bdv 4) := by decide
theorem test_table_word_fetched :
    fetch (State.reset.withFetchWord 16 0x0604) = some (.bdv 4) ∧
      (State.reset.withFetchWord 16 0x0604).status = .running := by decide

/-! ### Load and text -/

theorem test_load_L1 : (load 1 2 3 [] State.reset).status = .halted := by decide
theorem test_load_L7 :
    (load 0 0 0 [5, 7, 8, 0] State.reset).status = .decodeFailed ∧
      (load 0 0 0 [5, 7, 8, 0] State.reset).fault.index = 1 := by decide
theorem test_render_S3 : renderOut [4, 6, 3, 5, 6, 3, 5, 2, 1, 0] = "4,6,3,5,6,3,5,2,1,0" := by decide
theorem test_listing : programListing [.adv 1, .jnz 0] = "adv 1\njnz 0" := by decide
theorem test_raw_listing : rawListing [0, 1, 5, 4, 3, 0] = "0,1,5,4,3,0" := by decide

/-! ### One step -/

/-- A Running engine at index 0 of `p`, as Load leaves it. -/
def at0 (a b c : Word) (p : List Instr) : State := load a b c (encodeProgram p) State.reset

/-- The same engine built with `SHIFT_POLICY = Fault`. -/
def at0F (a b c : Word) (p : List Instr) : State := { at0 a b c p with config := { shiftPolicy := .fault } }

/-- `2^64 - 1`, the spec's `M`. -/
abbrev M : Word := 0xFFFFFFFFFFFFFFFF

/-- The next state, where there is one. -/
def after (o : Host.Outcome State Fault Refusal) : Option State :=
  match o with
  | .next t => some t
  | .fault _ => none
  | .refused _ => none

theorem test_adv_H6 : (after (step (at0 M 63 0 [.adv 5, .adv 0]))).map (fun t => (t.a, t.pc)) = some (1, 1) := by
  decide
theorem test_adv_H7f :
    (after (step (at0F M 64 0 [.adv 5, .adv 0]))).map (fun t => (t.a, t.pc, t.status, t.fault.cause)) =
      some (M, 0, .faulted, .shiftOverflow) := by decide
theorem test_bdv_H11 :
    (after (step (at0 0x100 4 0 [.bdv 5]))).map (fun t => (t.a, t.b, t.status)) = some (0x100, 0x10, .halted) := by
  decide
theorem test_bdv_H17 :
    (after (step (at0 5 0 0 [.bdv 7]))).map (fun t => (t.status, t.fault)) =
      some (.faulted, { cause := .reservedCombo, index := 0, opcode := 6, operand := 7 }) := by decide
theorem test_cdv_H13 : (after (step (at0 M 0 62 [.cdv 6]))).map (·.c) = some 3 := by decide
theorem test_cdv_H14 : (after (step (at0 2024 3 0 [.cdv 5]))).map (fun t => (t.a, t.c)) = some (2024, 253) := by decide
theorem test_bxl_X2 : (after (step (at0 0 0x29 0 [.bxl 7]))).map (·.b) = some 0x2E := by decide
theorem test_bxl_X3 : (after (step (at0 0 M 0 [.bxl 5]))).map (·.b) = some 0xFFFFFFFFFFFFFFFA := by decide
theorem test_bst_X5 : (after (step (at0 0 0x2F 0 [.bst 5]))).map (·.b) = some 7 := by decide
theorem test_bst_X8 : (after (step (at0 0 5 0 [.bst 7]))).map (fun t => (t.b, t.status)) = some (5, .faulted) := by
  decide
theorem test_bxc_X9 :
    (after (step (at0 0 0xF0F0 0x0FF0 [.bxc 0]))).map (fun t => (t.b, t.c)) = some (0xFF00, 0x0FF0) := by decide
theorem test_bxc_X10 : (after (step (at0 0 5 5 [.bxc 7]))).map (fun t => (t.b, t.status)) = some (0, .halted) := by
  decide
theorem test_jnz_J4 :
    (after (step (at0 0x8000000000000000 0 0 [.jnz 1]))).map (fun t => (t.pc, t.status)) = some (0, .running) := by
  decide
theorem test_jnz_J5 :
    (after (step (at0 1 0 0 [.jnz 6, .adv 0]))).map (fun t => (t.pc, t.status)) = some (3, .halted) := by decide
theorem test_out_O4 : (after (step (at0 0 M 0 [.out 5]))).map (·.out) = some [7] := by decide
theorem test_out_O6 :
    (after (step { at0 0 0 0 [.out 7] with out := [2] })).map (fun t => (t.out, t.status)) =
      some ([2], .faulted) := by decide

/-! ### Witnesses: for each statement with hypotheses, a state and operands that meet them -/

/-- A Running state of the invariant, in a two-instruction program. -/
def demo : State := at0 1 2 3 [.out 4, .jnz 0]

theorem witness_inv_demo : Inv demo where
  memWf := by decide
  progDecoded := fun _ => by decide
  runningInside := fun _ => by decide
  haltedOutside := fun h => absurd h (by decide)
  pcBound := by decide
  noFault := fun _ => by decide
  faultedRecord := fun h => absurd h (by decide)
  overflowPolicy := fun h => absurd h (by decide)
  decodeFailedRecord := fun h => absurd h (by decide)

theorem witness_OddLengthFailsDecode : ([9, 1, 5] : List Elem).length % 2 = 1 := by decide

theorem witness_FirstBadPairIsReported_opcode :
    ([] : List Elem).length % 2 = 0 ∧ 8 ≤ (8 : Elem).toNat := by decide
theorem witness_FirstBadPairIsReported_operand :
    ([1, 2] : List Elem).length % 2 = 0 ∧ ¬ 8 ≤ (7 : Elem).toNat ∧ 8 ≤ (8 : Elem).toNat := by decide

theorem witness_DecodeIsTotal_in_contract : RawProgram.inContract [7, 7, 0, 0] = true := by decide
theorem witness_DecodeIsTotal_outside_contract : RawProgram.inContract [7, 8] = false := by decide

theorem witness_InstructionIsItsRawPair :
    decodeProgram [0, 7, 4, 0] = .ok [.adv 7, .bxc 0] ∧ [Instr.adv 7, .bxc 0][1]? = some (.bxc 0) := by decide

theorem witness_LoadSetsWholeState_decoded : decodeProgram [0, 7, 4, 0] = .ok [.adv 7, .bxc 0] := by decide
theorem witness_LoadSetsWholeState_failed :
    decodeProgram [8, 0] = .error { cause := .invalidOpcode, index := 0, opcode := 8, operand := 0 } := by decide

theorem witness_ResetIsLoadOfEmptyProgram : demo.config = Config.standard := by decide

theorem witness_StepRunsFetchedInstruction :
    demo.status = .running ∧ demo.prog[demo.pc]? = some (.out 4) := by decide

/-- The last instruction of `demo`, a boundary of the pointer's range. -/
def demoLast : State := { demo with pc := 1 }

theorem witness_inv_demoLast : Inv demoLast where
  memWf := by decide
  progDecoded := fun _ => by decide
  runningInside := fun _ => by decide
  haltedOutside := fun h => absurd h (by decide)
  pcBound := by decide
  noFault := fun _ => by decide
  faultedRecord := fun h => absurd h (by decide)
  overflowPolicy := fun h => absurd h (by decide)
  decodeFailedRecord := fun h => absurd h (by decide)

theorem witness_StepRunsDecodedRawPair :
    Inv demoLast ∧ demoLast.status = .running ∧ demoLast.mem.read (2 * demoLast.pc) = some 3 ∧
      demoLast.mem.read (2 * demoLast.pc + 1) = some 0 ∧ decodePair 3 0 = .ok (.jnz 0) :=
  ⟨witness_inv_demoLast, by decide, by decide, by decide, by decide⟩

theorem witness_TerminalStatesStayFrozen :
    State.reset.status = .halted ∧ (load 0 0 0 [8, 0] State.reset).status = .decodeFailed ∧
      (raise .reservedCombo (.adv 7) demo).status = .faulted := by decide

theorem witness_StepAnswersUnlessOutsideProgram :
    ¬(demo.status = .running ∧ demo.prog.length ≤ demo.pc) := by decide

theorem witness_StepKeepsInv :
    Inv demo ∧ step demo = .next { demo with out := [1], pc := 1 } := ⟨witness_inv_demo, rfl⟩

theorem witness_ShrFollowsItsDefinition :
    (63 : Word).toNat ≤ 63 ∧ 64 ≤ (64 : Word).toNat := by decide

/-- B = 63 and C = 64, the two sides of the shift boundary (95_test_vectors.md program P7). -/
def edge : State := at0 M 63 64 [.adv 5, .bdv 6]

/-- The same registers under `SHIFT_POLICY = Fault`. -/
def edgeF : State := at0F M 63 64 [.adv 5, .bdv 6]

theorem witness_shift_within_width : combo edge 5 = some 63 ∧ (63 : Word).toNat ≤ 63 := by decide
theorem witness_shift_beyond_width_zero :
    combo edge 6 = some 64 ∧ 64 ≤ (64 : Word).toNat ∧ edge.config.shiftPolicy = .zero := by decide
theorem witness_shift_beyond_width_fault :
    combo edgeF 6 = some 64 ∧ 64 ≤ (64 : Word).toNat ∧ edgeF.config.shiftPolicy = .fault := by decide

theorem witness_BstStoresMod8IntoB : combo edge 4 = some M := by decide
theorem witness_OutAppendsOneDigit : combo edge 3 = some 3 := by decide

theorem witness_JnzJumpsWhenANonzero : demo.a ≠ 0 ∧ State.reset.a = 0 := by decide

theorem witness_SourcesAreReadBeforeWriting : edge.config.shiftPolicy = .zero := by decide

theorem witness_BxlKeepsHighBitsAndUndoesItself :
    exec (.bxl 7) demo = .next { demo with b := 5, pc := 1 } ∧
      exec (.bxl 7) { demo with b := 5, pc := 1 } = .next { demo with b := 2, pc := 2, status := .halted } :=
  ⟨rfl, rfl⟩

theorem witness_NonComboInstructionsNeverFault :
    (Instr.bxc 7).operandKind ≠ .combo ∧ exec (.bxc 7) demo = .next { demo with b := 1, pc := 1 } :=
  ⟨by decide, rfl⟩

theorem witness_RegistersAreWrittenOnlyByTheirInstructions_a :
    exec (.adv 1) edge = .next { edge with a := 0x7FFFFFFFFFFFFFFF, pc := 1 } ∧ (0x7FFFFFFFFFFFFFFF : Word) ≠ edge.a :=
  ⟨rfl, by decide⟩
theorem witness_RegistersAreWrittenOnlyByTheirInstructions_b :
    exec (.bst 4) edge = .next { edge with b := 7, pc := 1 } ∧ (7 : Word) ≠ edge.b := ⟨rfl, by decide⟩
theorem witness_RegistersAreWrittenOnlyByTheirInstructions_c :
    exec (.cdv 5) edge = .next { edge with c := 1, pc := 1 } ∧ (1 : Word) ≠ edge.c := ⟨rfl, by decide⟩

theorem witness_NoInstructionWritesProgram : exec (.out 3) demo = .next { demo with out := [3], pc := 1 } := rfl

theorem witness_PointerAdvancesUnlessJnzTaken_taken :
    demo.status = .running ∧ demo.a ≠ 0 ∧ exec (.jnz 7) demo = .next { demo with pc := 3, status := .halted } :=
  ⟨by decide, by decide, rfl⟩
theorem witness_PointerAdvancesUnlessJnzTaken_not_taken :
    (at0 0 0 0 [.jnz 0]).status = .running ∧ (at0 0 0 0 [.jnz 0]).a = 0 ∧
      exec (.jnz 0) (at0 0 0 0 [.jnz 0]) = .next { at0 0 0 0 [.jnz 0] with pc := 1, status := .halted } :=
  ⟨by decide, by decide, rfl⟩

theorem witness_HaltExactlyPastTheEnd_running :
    demo.status = .running ∧ exec (.out 3) demo = .next { demo with out := [3], pc := 1 } ∧
      demo.status ≠ .faulted := ⟨by decide, rfl, by decide⟩
theorem witness_HaltExactlyPastTheEnd_halted :
    demoLast.status = .running ∧
      exec (.bst 1) demoLast = .next { demoLast with b := 1, pc := 2, status := .halted } := ⟨by decide, rfl⟩

theorem witness_PointerStaysBounded :
    (at0 1 0 0 [.jnz 7]).status = .running ∧
      step (at0 1 0 0 [.jnz 7]) = .next { at0 1 0 0 [.jnz 7] with pc := 3, status := .halted } := ⟨by decide, rfl⟩

theorem witness_ExecutionFaultIsPrecise :
    edgeF.status = .running ∧
      step { edgeF with pc := 1 } =
        .next { edgeF with
          pc := 1, status := .faulted
          fault := { cause := .shiftOverflow, index := 1, opcode := 6, operand := 6 } } :=
  ⟨by decide, rfl⟩

theorem witness_FaultCausesFitTheirInstructions_reserved :
    demo.status = .running ∧
      exec (.cdv 7) demo =
        .next { demo with
          status := .faulted, fault := { cause := .reservedCombo, index := 0, opcode := 7, operand := 7 } } :=
  ⟨by decide, rfl⟩
theorem witness_FaultCausesFitTheirInstructions_overflow :
    edgeF.status = .running ∧
      exec (.adv 6) edgeF =
        .next { edgeF with
          status := .faulted, fault := { cause := .shiftOverflow, index := 0, opcode := 0, operand := 6 } } :=
  ⟨by decide, rfl⟩

theorem witness_FaultRecordChangesOnlyOnFaulting :
    step (at0 9 0 0 [.adv 7]) =
      .next { at0 9 0 0 [.adv 7] with
        status := .faulted, fault := { cause := .reservedCombo, index := 0, opcode := 0, operand := 7 } } ∧
      (at0 9 0 0 [.adv 7]).fault = FaultRecord.clear := ⟨rfl, by decide⟩

theorem witness_StepIsIndependentOfOutput : step demo = .next { demo with out := [1], pc := 1 } := rfl

theorem witness_OutputGrowsAlongRuns :
    Host.Core.run Sys2Proof.core 1 demo = .next { demo with out := [1], pc := 1 } := rfl

theorem witness_RunEndsTerminalOrIsNotEnded : Inv demo ∧ Inv demoLast := ⟨witness_inv_demo, witness_inv_demoLast⟩

theorem witness_FetchAlwaysFindsInstruction : Inv demoLast ∧ demoLast.status = .running :=
  ⟨witness_inv_demoLast, by decide⟩

theorem witness_OutputIsAppendOnly : exec (.out 4) demo = .next { demo with out := [1], pc := 1 } := rfl

theorem witness_EndedRunIgnoresMoreFuel :
    runFor 1 (at0 0 0 0 [.jnz 0]) = .ended { at0 0 0 0 [.jnz 0] with pc := 1, status := .halted } := by decide

theorem witness_ReservedFreeProgramsOnlyEndHalted :
    Safe (at0 0 0 0 [.jnz 0]) ∧ (at0 0 0 0 [.jnz 0]).config.shiftPolicy = .zero ∧
      (∀ i ∈ (at0 0 0 0 [.jnz 0]).prog, i.reserved = false) ∧
      runFor 1 (at0 0 0 0 [.jnz 0]) = .ended { at0 0 0 0 [.jnz 0] with pc := 1, status := .halted } :=
  ⟨.inl (by decide), by decide, by decide, by decide⟩

/-- A jnz at its own index, with A not zero (95_test_vectors.md program P6). -/
def hang : State := at0 1 0 0 [.jnz 1]

theorem witness_JnzToItselfNeverEnds :
    hang.status = .running ∧ hang.prog[hang.pc]? = some (.jnz 1) ∧ hang.a ≠ 0 ∧ (1 : U3).toNat / 2 = hang.pc := by
  decide

theorem witness_ObservedOutputIsMarked :
    State.reset.status = .halted ∧ (raise .reservedCombo (.adv 7) demo).status = .faulted ∧
      demo.status = .running := by decide

end Sys2Proof.Tests
end

section
/-! The family of 10_state.md. First the missing rules of the state operations and what an instruction can do to one
field, then the invariant through Load and through every step, then the obligations. -/

namespace Sys2Proof.Machine

/-! ### Register writes: one rule per field, for every register -/

section WriteReg

variable (r : Reg) (v : Word) (s : State)

@[simp] theorem writeReg_pc : (writeReg r v s).pc = s.pc := by cases r <;> rfl
@[simp] theorem writeReg_status : (writeReg r v s).status = s.status := by cases r <;> rfl
@[simp] theorem writeReg_fault : (writeReg r v s).fault = s.fault := by cases r <;> rfl
@[simp] theorem writeReg_out : (writeReg r v s).out = s.out := by cases r <;> rfl
@[simp] theorem writeReg_prog : (writeReg r v s).prog = s.prog := by cases r <;> rfl
@[simp] theorem writeReg_mem : (writeReg r v s).mem = s.mem := by cases r <;> rfl
@[simp] theorem writeReg_config : (writeReg r v s).config = s.config := by cases r <;> rfl

/-- No register is hardwired (R20). -/
@[simp] theorem readReg_writeReg_same : readReg r (writeReg r v s) = v := by cases r <;> rfl

/-- The registers are independent (R20). -/
theorem readReg_writeReg_of_ne {r q : Reg} (h : q ≠ r) : readReg q (writeReg r v s) = readReg q s := by
  cases r with
  | a =>
    cases q with
    | a => exact absurd rfl h
    | b | c => rfl
  | b =>
    cases q with
    | b => exact absurd rfl h
    | a | c => rfl
  | c =>
    cases q with
    | c => exact absurd rfl h
    | a | b => rfl

end WriteReg

/-! ### What an instruction does, whichever it is -/

/-- A jump target is at most 3, the reason for the 3 in R25's bound. -/
theorem jumpTarget_le_three (x : U3) : x.toNat / 2 ≤ 3 := by
  have := x.isLt
  omega

/-- The shapes of an instruction's answer, whichever instruction it is: an execution fault, an advance after at most one
write to a register or to OUT, or a jump to a target within R25's bound. -/
theorem exec_next_shapes {i : Instr} {s t : State} (h : exec i s = .next t) :
    (∃ cause, cause.isExecution = true ∧ (cause = .shiftOverflow → s.config.shiftPolicy = .fault) ∧
        t = raise cause i s) ∨
      (∃ r v, t = advance (writeReg r v s)) ∨ (∃ d, t = advance (emit d s)) ∨ t = advance s ∨
      (∃ n, n ≤ 3 ∧ t = jump n s) := by
  rcases exec_next_cases i s t h with ⟨-, -, rfl⟩ | ⟨hpol, -, rfl⟩ | ⟨-, v, -, rfl⟩ | ⟨v, -, rfl⟩ | ⟨-, v, -, rfl⟩ |
    ⟨-, d, -, rfl⟩ | ⟨x, -, -, rfl⟩ | ⟨-, -, -, rfl⟩
  · exact .inl ⟨.reservedCombo, rfl, nofun, rfl⟩
  · exact .inl ⟨.shiftOverflow, rfl, fun _ => hpol, rfl⟩
  · exact .inr (.inl ⟨.a, v, rfl⟩)
  · exact .inr (.inl ⟨.b, v, rfl⟩)
  · exact .inr (.inl ⟨.c, v, rfl⟩)
  · exact .inr (.inr (.inl ⟨d, rfl⟩))
  · exact .inr (.inr (.inr (.inr ⟨x.toNat / 2, jumpTarget_le_three x, rfl⟩)))
  · exact .inr (.inr (.inr (.inl rfl)))

/-- No instruction writes Prog (R31). -/
theorem exec_prog {i : Instr} {s t : State} (h : exec i s = .next t) : t.prog = s.prog := by
  rcases exec_next_shapes h with ⟨_, -, -, rfl⟩ | ⟨_, _, rfl⟩ | ⟨_, rfl⟩ | rfl | ⟨_, -, rfl⟩ <;> simp

/-- The pointer stays (at a fault), advances by one, or jumps to a target of at most 3 (R94, R151). -/
theorem exec_pc_cases {i : Instr} {s t : State} (h : exec i s = .next t) :
    t.pc = s.pc ∨ t.pc = s.pc + 1 ∨ t.pc ≤ 3 := by
  rcases exec_next_shapes h with ⟨_, -, -, rfl⟩ | ⟨_, _, rfl⟩ | ⟨_, rfl⟩ | rfl | ⟨n, hn, rfl⟩
  · exact .inl (raise_pc _ _ _)
  · exact .inr (.inl (by simp))
  · exact .inr (.inl (by simp))
  · exact .inr (.inl (advance_pc s))
  · exact .inr (.inr (by simpa using hn))

/-- FAULT is left alone by an instruction that does not leave the engine Faulted (R28). -/
theorem exec_fault_cases {i : Instr} {s t : State} (h : exec i s = .next t) :
    t.fault = s.fault ∨ t.status = .faulted := by
  rcases exec_next_shapes h with ⟨_, -, -, rfl⟩ | ⟨_, _, rfl⟩ | ⟨_, rfl⟩ | rfl | ⟨_, -, rfl⟩
  · exact .inr (raise_status _ _ _)
  · exact .inl (by simp)
  · exact .inl (by simp)
  · exact .inl (advance_fault s)
  · exact .inl (jump_fault _ s)

/-- A fetch that answers is within the program (R91). -/
theorem pc_lt_of_fetched {s : State} {i : Instr} (h : s.prog[s.pc]? = some i) : s.pc < s.prog.length :=
  (List.getElem?_eq_some_iff.1 h).1

end Sys2Proof.Machine

namespace Sys2Proof

open Sys2Proof.Machine

/-! ### Decode raises decode causes only (R150) -/

theorem decodePair_error_isDecode {e0 e1 : Elem} {c : FaultCause} (h : decodePair e0 e1 = .error c) :
    c.isDecode = true := by
  rcases decodePair_cases e0 e1 with ⟨-, he⟩ | ⟨-, -, he⟩ | ⟨-, -, i, -, he⟩ <;> cases he.symm.trans h <;> rfl

theorem decodePairs_error_isDecode {k : Nat} {raw : List Elem} {f : FaultRecord}
    (h : decodePairs k raw = .error f) : f.cause.isDecode = true := by
  fun_induction decodePairs k raw with
  | case1 => cases h
  | case2 => cases h; rfl
  | case3 k e0 e1 rest cause hpair => cases h; exact decodePair_error_isDecode hpair
  | case4 k e0 e1 rest ins hpair g hrest ih => cases h; exact ih hrest
  | case5 => cases h

theorem decodeProgram_error_isDecode {raw : List Elem} {f : FaultRecord}
    (h : decodeProgram raw = .error f) : f.cause.isDecode = true := by
  unfold decodeProgram at h
  split at h
  · cases h; rfl
  · exact decodePairs_error_isDecode h

/-! ### The invariant through Load -/

/-- A state that the halt test left (R95, R181), with a clear FAULT and a decoded Prog, meets the invariant. -/
theorem inv_of_haltTested {s : State} (hwf : s.mem.wf = true) (hdec : decodeProgram s.mem.elems = .ok s.prog)
    (hpc : s.pc ≤ max s.prog.length 3) (hfault : s.fault = FaultRecord.clear)
    (hstatus : s.status = if s.prog.length ≤ s.pc then .halted else .running) : Inv s where
  memWf := hwf
  progDecoded _ := hdec
  runningInside hr := by
    by_contra hge
    simp [hstatus, Nat.le_of_not_lt hge] at hr
  haltedOutside hh := by
    by_contra hlt
    simp [hstatus, hlt] at hh
  pcBound := hpc
  noFault _ := hfault
  faultedRecord hf := by
    rw [hstatus] at hf
    split at hf <;> cases hf
  overflowPolicy hc := by
    rw [hfault] at hc
    cases hc
  decodeFailedRecord hd := by
    rw [hstatus] at hd
    split at hd <;> cases hd

theorem inv_load_of_ok (a0 b0 c0 : Word) {raw : List Elem} {p : List Instr} (s : State)
    (h : decodeProgram raw = .ok p) : Inv (load a0 b0 c0 raw s) := by
  rw [load, storeProgram_of_ok raw p _ h]
  apply inv_of_haltTested
  case hwf => exact ofElems_wf raw
  case hdec => simpa using h
  case hpc => simp
  case hfault => rfl
  case hstatus => simp [statusAfterDecode]

theorem inv_load_of_error (a0 b0 c0 : Word) {raw : List Elem} {f : FaultRecord} (s : State)
    (h : decodeProgram raw = .error f) : Inv (load a0 b0 c0 raw s) := by
  rw [load, storeProgram_of_error raw f _ h]
  exact {
    memWf := ofElems_wf raw
    progDecoded := fun hne => absurd rfl hne
    runningInside := nofun
    haltedOutside := nofun
    pcBound := Nat.zero_le _
    noFault := nofun
    faultedRecord := nofun
    overflowPolicy := fun hc => by
      have hdecode : f.cause.isDecode = true := decodeProgram_error_isDecode h
      rw [show f.cause = .shiftOverflow from hc] at hdecode
      cases hdecode
    decodeFailedRecord := fun _ => ⟨by simpa using h, rfl, rfl⟩ }

/-! ### The invariant through the operations of a step -/

section Step

variable {s : State}

/-- The invariant says nothing of the registers. -/
theorem inv_writeReg (r : Reg) (v : Word) (h : Inv s) : Inv (writeReg r v s) := by
  cases r <;> exact { h with }

/-- The invariant speaks of OUT in DecodeFailed alone. -/
theorem inv_emit (d : U3) (h : Inv s) (hr : s.status = .running) : Inv (emit d s) :=
  { h with decodeFailedRecord := fun hd => nomatch hr.symm.trans hd }

/-- Taking an execution fault at the fetched instruction (R151). -/
theorem inv_raise {cause : FaultCause} {i : Instr} (h : Inv s) (hr : s.status = .running)
    (hi : s.prog[s.pc]? = some i) (hexec : cause.isExecution = true)
    (hpol : cause = .shiftOverflow → s.config.shiftPolicy = .fault) : Inv (raise cause i s) where
  memWf := h.memWf
  progDecoded _ := h.progDecoded (by simp [hr])
  runningInside := nofun
  haltedOutside := nofun
  pcBound := h.pcBound
  noFault := nofun
  faultedRecord _ := ⟨hexec, rfl, i, hi, rfl, rfl⟩
  overflowPolicy := hpol
  decodeFailedRecord := nofun

/-- Step 5 of R90: moving the pointer within R25's bound, then the halt test. -/
theorem inv_jump {n : Nat} (h : Inv s) (hr : s.status = .running) (hn : n ≤ max s.prog.length 3) :
    Inv (jump n s) := by
  apply inv_of_haltTested
  case hwf => simpa using h.memWf
  case hdec => simpa using h.progDecoded (by simp [hr])
  case hpc => simpa using hn
  case hfault => simpa using h.noFault (.inl hr)
  case hstatus => simp [hr]

/-- A Running pointer is within the program, so its advance is within R25's bound. -/
theorem inv_advance (h : Inv s) (hr : s.status = .running) : Inv (advance s) := by
  have hpc : s.pc < s.prog.length := h.runningInside hr
  exact inv_jump (n := s.pc + 1) h hr (by omega)

/-- Running the fetched instruction keeps the invariant. -/
theorem inv_exec {i : Instr} {t : State} (h : Inv s) (hr : s.status = .running) (hi : s.prog[s.pc]? = some i)
    (ht : exec i s = .next t) : Inv t := by
  rcases exec_next_shapes ht with ⟨cause, hexec, hpol, rfl⟩ | ⟨r, v, rfl⟩ | ⟨d, rfl⟩ | rfl | ⟨n, hn, rfl⟩
  · exact inv_raise h hr hi hexec hpol
  · exact inv_advance (inv_writeReg r v h) (by simpa using hr)
  · exact inv_advance (inv_emit d h hr) hr
  · exact inv_advance h hr
  · exact inv_jump h hr (by omega)

end Step

/-! ### The obligations -/

/-- Settles O20: a Running step runs the fetched instruction, any other answers the state it was given. -/
theorem stepKeepsInv : Obligations.StepKeepsInv := by
  intro s t hinv hstep
  rcases step_next_cases s t hstep with ⟨hr, i, hi, ht⟩ | ⟨-, rfl⟩
  · exact inv_exec hinv hr hi ht
  · exact hinv

/-- Settles O11, by the two results of Decode. -/
theorem invHoldsAfterLoad : Obligations.InvHoldsAfterLoad := by
  intro a0 b0 c0 raw s
  cases h : decodeProgram raw with
  | ok p => exact inv_load_of_ok a0 b0 c0 s h
  | error f => exact inv_load_of_error a0 b0 c0 s h

/-- Settles O36, by what each instruction can do. -/
theorem registersAreWrittenOnlyByTheirInstructions :
    Obligations.RegistersAreWrittenOnlyByTheirInstructions := by
  intro i s t h
  rcases exec_next_cases i s t h with ⟨-, -, rfl⟩ | ⟨-, -, rfl⟩ | ⟨x, v, hi, rfl⟩ | ⟨v, hi, rfl⟩ | ⟨x, v, hi, rfl⟩ |
    ⟨-, d, -, rfl⟩ | ⟨x, -, -, rfl⟩ | ⟨-, -, -, rfl⟩
  case inr.inr.inl => exact ⟨fun _ => ⟨x, hi⟩, by simp, by simp⟩
  case inr.inr.inr.inl => exact ⟨by simp, fun _ => hi, by simp⟩
  case inr.inr.inr.inr.inl => exact ⟨by simp, by simp, fun _ => ⟨x, hi⟩⟩
  all_goals simp

/-- Settles O40: the fetch puts the pointer before the step inside the program, so an advance stays within it. -/
theorem pointerStaysBounded : Obligations.PointerStaysBounded := by
  intro s t hr hstep
  rcases step_next_cases s t hstep with ⟨-, i, hi, ht⟩ | ⟨hne, -⟩
  · have hpc : s.pc < s.prog.length := pc_lt_of_fetched hi
    rw [exec_prog ht]
    rcases exec_pc_cases ht with h | h | h <;> omega
  · exact absurd hr hne

/-- Settles O41: of everything an instruction can do, `out` alone emits. -/
theorem outputIsAppendOnly : Obligations.OutputIsAppendOnly := by
  intro i s t h
  rcases exec_next_cases i s t h with ⟨-, -, rfl⟩ | ⟨-, -, rfl⟩ | ⟨-, -, -, rfl⟩ | ⟨-, -, rfl⟩ | ⟨-, -, -, rfl⟩ |
    ⟨x, d, hi, rfl⟩ | ⟨x, -, -, rfl⟩ | ⟨-, -, -, rfl⟩
  case inr.inr.inr.inr.inr.inl => exact .inr ⟨x, d, hi, by simp⟩
  all_goals exact .inl (by simp)

/-- Settles O44. -/
theorem faultRecordChangesOnlyOnFaulting : Obligations.FaultRecordChangesOnlyOnFaulting := by
  intro s t hstep hne
  rcases step_next_cases s t hstep with ⟨hr, i, -, ht⟩ | ⟨-, rfl⟩
  · exact ⟨hr, (exec_fault_cases ht).resolve_left hne⟩
  · exact absurd rfl hne

/-- Settles O22: a register reads back its own write and ignores the others'. -/
theorem registersDoNotAlias : Obligations.RegistersDoNotAlias := by
  intro r q v s
  split
  case isTrue h =>
    subst h
    exact readReg_writeReg_same q v s
  case isFalse h => exact readReg_writeReg_of_ne v s h

/-- Settles O51: the codes are the definitions' own values. -/
theorem statusAndCauseCodes : Obligations.StatusAndCauseCodes := by
  exact ⟨rfl, rfl, rfl, rfl, rfl, rfl, rfl, rfl, rfl, rfl⟩

end Sys2Proof
end

section
/-! The family of 20_memory.md: what Load leaves in raw program memory, and that no instruction writes there. -/

namespace Sys2Proof.Machine

/-- Load stores the raw program it is given, whether or not it decodes (R160 (3)). -/
@[simp] theorem load_mem (a0 b0 c0 : Word) (raw : List Elem) (s : State) :
    (load a0 b0 c0 raw s).mem = Memory.ofElems raw :=
  storeProgram_mem raw (clearFor a0 b0 c0 s)

/-- What no instruction reaches besides Prog (`exec_prog`): raw program memory (R42) and the build-time configuration
(R29). -/
theorem exec_mem_config {i : Instr} {s t : State} (h : exec i s = .next t) :
    t.mem = s.mem ∧ t.config = s.config := by
  rcases exec_next_shapes h with ⟨cause, -, -, rfl⟩ | ⟨r, v, rfl⟩ | ⟨d, rfl⟩ | rfl | ⟨n, -, rfl⟩
  · exact ⟨raise_mem cause i s, raise_config cause i s⟩
  · simp
  · simp
  · exact ⟨advance_mem s, advance_config s⟩
  · exact ⟨jump_mem n s, jump_config n s⟩

end Sys2Proof.Machine

namespace Sys2Proof

open Sys2Proof.Machine

/-- Settles O37: the whole of memory is unchanged, so every read of it is. -/
theorem noInstructionWritesProgram : Obligations.NoInstructionWritesProgram := by
  intro i s t h
  obtain ⟨hmem, hconfig⟩ := exec_mem_config h
  exact ⟨fun k => by rw [hmem], hmem, exec_prog h, hconfig⟩

/-- Settles O10: Load leaves the stored form of the raw program, which reads as indexing into it. -/
theorem loadStoresRawProgram : Obligations.LoadStoresRawProgram := by
  intro a0 b0 c0 raw s k
  rw [load_mem]
  exact ofElems_read raw k

end Sys2Proof
end

section
/-! The family of 30_encoding.md. First the encoder and the decoder on one pair, on a list of pairs and on a whole raw
program, then the fetched pair, then runs that cannot fault, then the obligations. -/

namespace Sys2Proof

open Sys2Proof.Machine

/-! ### One pair -/

/-- The operand element is five zeros and the operand field (R61). -/
theorem encodeOperand_eq_zeros_append (i : Instr) : encodeOperand i = 0#5 ++ i.operand :=
  BitVec.setWidth_eq_append (by decide)

/-- An operand element of 0 to 7 is the zero extension of its own field. -/
theorem eq_setWidth_iff_of_lt {e : Elem} (h : e.toNat < 8) (x : U3) : e = x.setWidth 8 ↔ operandField e = x := by
  simp only [operandField, ← BitVec.toNat_inj, BitVec.toNat_setWidth, BitVec.extractLsb'_toNat]
  omega

theorem encodeOpcode_toNat_lt (i : Instr) : (encodeOpcode i).toNat < 8 := by
  cases i <;> simp [encodeOpcode]

theorem encodeOperand_toNat_lt (i : Instr) : (encodeOperand i).toNat < 8 := by
  have := i.operand.isLt
  simp only [encodeOperand, BitVec.toNat_setWidth]
  omega

/-- R63's map in both directions. -/
theorem instrOf_eq_some_iff {e0 : Elem} {x : U3} {i : Instr} :
    instrOf e0 x = some i ↔ e0 = encodeOpcode i ∧ x = i.operand := by
  constructor
  · intro h
    unfold instrOf at h
    split at h <;> cases h <;> exact ⟨BitVec.eq_of_toNat_eq ‹_›, rfl⟩
  · rintro ⟨rfl, rfl⟩
    cases i <;> rfl

/-- A pair decodes to `i` exactly when it is the encoding of `i` (R61, R63). -/
theorem decodePair_eq_ok_iff {e0 e1 : Elem} {i : Instr} :
    decodePair e0 e1 = .ok i ↔ e0 = encodeOpcode i ∧ e1 = encodeOperand i := by
  constructor
  · intro h
    rcases decodePair_cases e0 e1 with ⟨-, he⟩ | ⟨-, -, he⟩ | ⟨-, hlt, j, hj, he⟩ <;> cases he.symm.trans h
    obtain ⟨hop, hfield⟩ := instrOf_eq_some_iff.1 hj
    exact ⟨hop, (eq_setWidth_iff_of_lt hlt _).2 hfield⟩
  · rintro ⟨rfl, rfl⟩
    have hlt := encodeOperand_toNat_lt i
    have hfield : operandField (encodeOperand i) = i.operand := (eq_setWidth_iff_of_lt hlt _).1 rfl
    have hmap : instrOf (encodeOpcode i) (operandField (encodeOperand i)) = some i :=
      instrOf_eq_some_iff.2 ⟨rfl, hfield⟩
    simp [decodePair, hmap, hlt]

@[simp] theorem decodePair_encode (i : Instr) : decodePair (encodeOpcode i) (encodeOperand i) = .ok i :=
  decodePair_eq_ok_iff.2 ⟨rfl, rfl⟩

/-- The cause a bad pair gives: the opcode element is checked first (R155 (b)). -/
theorem decodePair_of_bad {e0 e1 : Elem} (h : 8 ≤ e0.toNat ∨ 8 ≤ e1.toNat) :
    decodePair e0 e1 = .error (if 8 ≤ e0.toNat then .invalidOpcode else .operandOutOfRange) := by
  rcases decodePair_cases e0 e1 with ⟨h0, he⟩ | ⟨h0, -, he⟩ | ⟨h0, h1, -⟩
  · simpa [h0] using he
  · simpa [Nat.not_le.2 h0] using he
  · omega

/-! ### The 16-bit view -/

/-- A word is its opcode element over its operand element (R61). -/
theorem word_eq_append_iff {w : BitVec 16} {e0 e1 : Elem} :
    w = e0 ++ e1 ↔ wordOpcode w = e0 ∧ wordOperand w = e1 := by
  constructor
  · rintro rfl
    exact ⟨BitVec.extractLsb'_append_eq_left, BitVec.extractLsb'_append_eq_right⟩
  · rintro ⟨rfl, rfl⟩
    simp only [wordOpcode, wordOperand]
    rw [BitVec.extractLsb'_append_extractLsb'_eq_extractLsb' (start₁ := 0) (len₁ := 8) rfl]
    exact BitVec.extractLsb'_eq_self.symm

theorem decodeWord_eq_ok_iff {w : BitVec 16} {i : Instr} : decodeWord w = .ok i ↔ w = encodeWord i :=
  decodePair_eq_ok_iff.trans word_eq_append_iff.symm

/-- The table's 16-bit word of an instruction is stored as its two raw elements (R44). -/
theorem tableElems_encodeWord (i : Instr) : tableElems 16 (encodeWord i).toNat = encode i := by
  have hword : tableWord 16 (encodeWord i).toNat = encodeWord i := by
    simp [tableWord, Nat.mod_eq_of_lt (encodeWord i).isLt]
  obtain ⟨hop, hopd⟩ := word_eq_append_iff.1 (rfl : encodeWord i = _)
  rw [tableElems, hword, hop, hopd, encode]

/-! ### The loop over the pairs -/

theorem decodePairs_cons_encode (k : Nat) (i : Instr) (rest : List Elem) :
    decodePairs k (encodeOpcode i :: encodeOperand i :: rest) = (decodePairs (k + 1) rest).map (i :: ·) := by
  rw [decodePairs, decodePair_encode]
  cases decodePairs (k + 1) rest <;> rfl

theorem decodePairs_of_bad_pair (k : Nat) {e0 e1 : Elem} (rest : List Elem) (h : 8 ≤ e0.toNat ∨ 8 ≤ e1.toNat) :
    decodePairs k (e0 :: e1 :: rest) =
      .error { cause := if 8 ≤ e0.toNat then .invalidOpcode else .operandOutOfRange
               index := k, opcode := e0, operand := e1 } := by
  rw [decodePairs, decodePair_of_bad h]

/-- The loop decodes the encoded instructions and goes on behind them. -/
theorem decodePairs_encodeProgram_append (k : Nat) (p : List Instr) (rest : List Elem) :
    decodePairs k (encodeProgram p ++ rest) = (decodePairs (k + p.length) rest).map (p ++ ·) := by
  induction p generalizing k with
  | nil => exact (id_map (decodePairs k rest)).symm
  | cons i p ih =>
    have hk : k + 1 + p.length = k + (i :: p).length := by simp; omega
    simp only [encodeProgram_cons, List.cons_append]
    rw [decodePairs_cons_encode, ih, hk]
    cases decodePairs (k + (i :: p).length) rest <;> rfl

theorem eq_encodeProgram_of_decodePairs {k : Nat} {raw : List Elem} {p : List Instr}
    (h : decodePairs k raw = .ok p) : raw = encodeProgram p := by
  fun_induction decodePairs k raw generalizing p with
  | case1 => cases h; rfl
  | case2 => cases h
  | case3 => cases h
  | case4 => cases h
  | case5 k e0 e1 rest i hpair q hrest ih =>
    cases h
    obtain ⟨rfl, rfl⟩ := decodePair_eq_ok_iff.1 hpair
    rw [ih hrest, encodeProgram_cons]

/-- The reported index lies among the pairs that are left. -/
theorem decodePairs_error_index_le {k : Nat} {raw : List Elem} {f : FaultRecord}
    (h : decodePairs k raw = .error f) : f.index ≤ k + raw.length / 2 := by
  fun_induction decodePairs k raw with
  | case1 => cases h
  | case2 => cases h; simp
  | case3 => cases h; simp
  | case4 k e0 e1 rest i hpair g hrest ih =>
    cases h
    have := ih hrest
    simp only [List.length_cons]
    omega
  | case5 => cases h

/-! ### Whole raw programs -/

theorem decodeProgram_of_odd {raw : List Elem} (h : raw.length % 2 = 1) :
    decodeProgram raw = .error { cause := .oddLength, index := raw.length / 2, opcode := 0, operand := 0 } := by
  simp [decodeProgram, h]

theorem decodeProgram_of_even {raw : List Elem} (h : raw.length % 2 = 0) :
    decodeProgram raw = decodePairs 0 raw := by
  simp [decodeProgram, h]

/-- Decode behind encoded instructions: the loop goes on at their number. -/
theorem decodeProgram_encodeProgram_append (p : List Instr) {rest : List Elem} (h : rest.length % 2 = 0) :
    decodeProgram (encodeProgram p ++ rest) = (decodePairs p.length rest).map (p ++ ·) := by
  have heven : (encodeProgram p ++ rest).length % 2 = 0 := by
    rw [List.length_append, encodeProgram_length]
    omega
  rw [decodeProgram_of_even heven, decodePairs_encodeProgram_append, Nat.zero_add]

@[simp] theorem decodeProgram_encodeProgram (p : List Instr) : decodeProgram (encodeProgram p) = .ok p := by
  simpa [decodePairs, Except.map] using decodeProgram_encodeProgram_append p (rest := []) rfl

theorem decodeProgram_encode (i : Instr) : decodeProgram (encode i) = .ok [i] := decodeProgram_encodeProgram [i]

theorem decodeProgram_eq_ok_iff {raw : List Elem} {p : List Instr} :
    decodeProgram raw = .ok p ↔ raw = encodeProgram p := by
  constructor
  · intro h
    rcases Nat.mod_two_eq_zero_or_one raw.length with heven | hodd
    · exact eq_encodeProgram_of_decodePairs ((decodeProgram_of_even heven).symm.trans h)
    · cases (decodeProgram_of_odd hodd).symm.trans h
  · rintro rfl
    exact decodeProgram_encodeProgram p

theorem decodeProgram_error_index_le {raw : List Elem} {f : FaultRecord} (h : decodeProgram raw = .error f) :
    f.index ≤ raw.length / 2 := by
  rcases Nat.mod_two_eq_zero_or_one raw.length with heven | hodd
  · simpa using decodePairs_error_index_le ((decodeProgram_of_even heven).symm.trans h)
  · cases (decodeProgram_of_odd hodd).symm.trans h
    exact Nat.le_refl _

/-! ### The interface contract (R40, R183) -/

theorem inContract_cons_cons_iff {e0 e1 : Elem} {rest : List Elem} :
    RawProgram.inContract (e0 :: e1 :: rest) = true ↔
      e0.toNat < 8 ∧ e1.toNat < 8 ∧ RawProgram.inContract rest = true := by
  simp only [RawProgram.inContract, RawProgram.evenLength, RawProgram.opcodesInRange, RawProgram.operandsInRange,
    List.length_cons, Nat.add_assoc, Nat.add_mod_right, Bool.and_eq_true, decide_eq_true_eq]
  tauto

theorem inContract_encodeProgram (p : List Instr) : RawProgram.inContract (encodeProgram p) = true := by
  induction p with
  | nil => rfl
  | cons i p ih =>
    exact inContract_cons_cons_iff.2 ⟨encodeOpcode_toNat_lt i, encodeOperand_toNat_lt i, ih⟩

/-- The raw programs within the contract are the encodings. -/
theorem inContract_iff_exists_encodeProgram (raw : List Elem) :
    RawProgram.inContract raw = true ↔ ∃ p, raw = encodeProgram p := by
  constructor
  · induction raw using List.twoStepInduction with
    | nil => exact fun _ => ⟨[], rfl⟩
    | singleton e => exact nofun
    | cons_cons e0 e1 rest ih _ =>
      intro h
      obtain ⟨h0, h1, hrest⟩ := inContract_cons_cons_iff.1 h
      obtain ⟨p, rfl⟩ := ih hrest
      rcases decodePair_cases e0 e1 with ⟨hbad, -⟩ | ⟨-, hbad, -⟩ | ⟨-, -, i, -, hpair⟩
      · omega
      · omega
      · obtain ⟨rfl, rfl⟩ := decodePair_eq_ok_iff.1 hpair
        exact ⟨i :: p, rfl⟩
  · rintro ⟨p, rfl⟩
    exact inContract_encodeProgram p

/-! ### The raw pair of an instruction, and its fetch -/

theorem encodeProgram_getElem?_opcode (p : List Instr) (i : Nat) :
    (encodeProgram p)[2 * i]? = p[i]?.map encodeOpcode := by
  induction p generalizing i with
  | nil => rfl
  | cons j p ih =>
    cases i with
    | zero => rfl
    | succ i => exact ih i

theorem encodeProgram_getElem?_operand (p : List Instr) (i : Nat) :
    (encodeProgram p)[2 * i + 1]? = p[i]?.map encodeOperand := by
  induction p generalizing i with
  | nil => rfl
  | cons j p ih =>
    cases i with
    | zero => rfl
    | succ i => exact ih i

/-- Instruction `i` of a decoded program stands at raw indices `2i` and `2i+1` (R62). -/
theorem read_of_decoded {raw : List Elem} {p : List Instr} (h : decodeProgram raw = .ok p) {i : Nat} {ins : Instr}
    (hi : p[i]? = some ins) :
    (Memory.ofElems raw).read (2 * i) = some (encodeOpcode ins) ∧
      (Memory.ofElems raw).read (2 * i + 1) = some (encodeOperand ins) := by
  obtain rfl := decodeProgram_eq_ok_iff.1 h
  simp only [ofElems_read, encodeProgram_getElem?_opcode, encodeProgram_getElem?_operand, hi, Option.map_some,
    and_self]

end Sys2Proof

namespace Sys2Proof.Machine

/-- A Running step runs the instruction at the pointer (R90, R91). -/
theorem step_of_fetched {s : State} {i : Instr} (hr : s.status = .running) (hi : s.prog[s.pc]? = some i) :
    step s = exec i s := by
  simp [step, fetch, hr, hi]

/-- What `withFetchWord` leaves for an instruction's own word: the one-instruction program, Running at its start. -/
theorem withFetchWord_encodeWord (i : Instr) (s : State) :
    s.withFetchWord 16 (encodeWord i).toNat =
      { s with mem := Memory.ofElems (encode i), prog := [i], pc := 0, status := .running } := by
  rw [State.withFetchWord, tableElems_encodeWord, storeProgram_of_ok _ [i] _ (decodeProgram_encode i)]
  rfl

/-! ### Runs that cannot fault -/

/-- What every Running step keeps holds where a run ends, and a run ends in a terminal STATUS (R101). -/
theorem runFor_ended_of_step_keeps {P : State → Prop}
    (hstep : ∀ s t, P s → s.status = .running → step s = .next t → P t) {k : Nat} {s t : State} (hs : P s)
    (h : runFor k s = .ended t) : P t ∧ t.status.terminal = true := by
  fun_induction runFor k s with
  | case1 s hterm => cases h; exact ⟨hs, hterm⟩
  | case2 => cases h
  | case3 k s hterm => cases h; exact ⟨hs, hterm⟩
  | case4 k s hterm u hu ih =>
    have hr : s.status = .running := by
      cases hst : s.status with
      | running => rfl
      | halted | faulted | decodeFailed => simp [hst, Status.terminal] at hterm
    exact ih (hstep s u hs hr hu) h
  | case5 => cases h
  | case6 => cases h

/-- An instruction halts the engine or leaves STATUS alone, but for a reserved encoding (R93) and, under the policy
Fault, a shift (R110). -/
theorem exec_status_cases {i : Instr} {s t : State} (h : exec i s = .next t) :
    t.status = .halted ∨ t.status = s.status ∨ i.reserved = true ∨ s.config.shiftPolicy = .fault := by
  have halts_or_keeps : ∀ n, (if s.prog.length ≤ n then Status.halted else s.status) = .halted ∨
      (if s.prog.length ≤ n then Status.halted else s.status) = s.status := by
    intro n
    split
    · exact .inl rfl
    · exact .inr rfl
  rcases exec_next_cases i s t h with ⟨hkind, hopd, -⟩ | ⟨hpol, -⟩ | ⟨-, v, -, rfl⟩ | ⟨v, -, rfl⟩ | ⟨-, v, -, rfl⟩ |
    ⟨-, d, -, rfl⟩ | ⟨x, -, -, rfl⟩ | ⟨-, -, -, rfl⟩
  · exact .inr (.inr (.inl (by simp [Instr.reserved, hkind, hopd])))
  · exact .inr (.inr (.inr hpol))
  case inr.inr.inr.inr.inr.inr.inl =>
    rw [jump_status]
    exact (halts_or_keeps (x.toNat / 2)).imp_right .inl
  all_goals
    rw [advance_status]
    exact (halts_or_keeps (s.pc + 1)).imp_right .inl

end Sys2Proof.Machine

namespace Sys2Proof

open Sys2Proof.Machine

/-- A safe state whose engine has nothing left to fault on: the policy is Zero (R110) and Prog holds no reserved
encoding (R71). -/
structure FaultFree (s : State) : Prop where
  safe : Safe s
  policyZero : s.config.shiftPolicy = .zero
  reservedFree : ∀ i ∈ s.prog, i.reserved = false

theorem FaultFree.step_keeps (s t : State) (h : FaultFree s) (hr : s.status = .running) (hstep : step s = .next t) :
    FaultFree t := by
  rcases step_next_cases s t hstep with ⟨-, i, hi, ht⟩ | ⟨hne, -⟩
  · have hprog : t.prog = s.prog := exec_prog ht
    obtain ⟨-, hconfig⟩ := exec_mem_config ht
    refine ⟨?_, by rw [hconfig]; exact h.policyZero, by rw [hprog]; exact h.reservedFree⟩
    rcases exec_status_cases ht with hhalt | hkeep | hres | hpol
    · exact .inr hhalt
    · exact .inl (hkeep.trans hr)
    · simp [h.reservedFree i (List.mem_of_getElem? hi)] at hres
    · cases h.policyZero.symm.trans hpol
  · exact absurd hr hne

/-! ### The obligations -/

/-- Settles O1. -/
theorem programDecodesIffEncoded : Obligations.ProgramDecodesIffEncoded := by
  intro raw p
  exact decodeProgram_eq_ok_iff

/-- Settles O50: no step leaves the fault-free states, and of those only Halted is terminal. -/
theorem reservedFreeProgramsOnlyEndHalted : Obligations.ReservedFreeProgramsOnlyEndHalted := by
  intro k s t hsafe hpol hres hrun
  obtain ⟨ht, hterm⟩ := runFor_ended_of_step_keeps FaultFree.step_keeps ⟨hsafe, hpol, hres⟩ hrun
  rcases ht.safe with hr | hh
  · rw [hr] at hterm
    cases hterm
  · exact hh

/-- Settles O2. -/
theorem wordDecodesIffEncoded : Obligations.WordDecodesIffEncoded := by
  intro w i
  exact decodeWord_eq_ok_iff

/-- Settles O6: the loop decodes the encoded instructions and meets the bad pair next. -/
theorem firstBadPairIsReported : Obligations.FirstBadPairIsReported := by
  intro p e0 e1 rest heven hbad
  have heven' : (e0 :: e1 :: rest).length % 2 = 0 := by
    simp only [List.length_cons]
    omega
  rw [decodeProgram_encodeProgram_append p heven', decodePairs_of_bad_pair _ rest hbad]
  rfl

/-- Settles O7: the raw programs within the contract are the encodings, and those are what decodes. -/
theorem decodeIsTotal : Obligations.DecodeIsTotal := by
  intro raw
  constructor
  · intro hin
    obtain ⟨p, rfl⟩ := (inContract_iff_exists_encodeProgram raw).1 hin
    exact ⟨p, decodeProgram_encodeProgram p, by rw [encodeProgram_length]; omega⟩
  · intro hout
    cases hdec : decodeProgram raw with
    | ok p =>
      rw [decodeProgram_eq_ok_iff.1 hdec, inContract_encodeProgram] at hout
      cases hout
    | error f => exact ⟨f, rfl, decodeProgram_error_isDecode hdec, decodeProgram_error_index_le hdec⟩

/-- Settles O8. -/
theorem instructionIsItsRawPair : Obligations.InstructionIsItsRawPair := by
  intro raw p h i ins hi
  obtain ⟨hop, hopd⟩ := read_of_decoded h hi
  exact ⟨hop, hopd, decodePair_encode ins⟩

/-- Settles O3: each opcode's element over the five zeros and the operand. -/
theorem encodingFollowsOpcodeMap : Obligations.EncodingFollowsOpcodeMap := by
  intro x
  simp only [encodeWord, encodeOperand_eq_zeros_append]
  exact ⟨rfl, rfl, rfl, rfl, rfl, rfl, rfl, rfl⟩

/-- Settles O4: each word is the encoding of its instruction. -/
theorem knownWordsDecode : Obligations.KnownWordsDecode := by
  simp only [Obligations.KnownWordsDecode, decodeWord_eq_ok_iff]
  decide

/-- Settles O5. -/
theorem oddLengthFailsDecode : Obligations.OddLengthFailsDecode := by
  intro raw h
  exact decodeProgram_of_odd h

/-- Settles O15: the raw pair at the pointer is the encoding of `Prog[pc]`, so it decodes to nothing else. -/
theorem stepRunsDecodedRawPair : Obligations.StepRunsDecodedRawPair := by
  intro s e0 e1 i hinv hr h0 h1 hpair
  have hdec : decodeProgram s.mem.elems = .ok s.prog := hinv.progDecoded (by simp [hr])
  obtain ⟨j, hfetch⟩ : ∃ j, s.prog[s.pc]? = some j := ⟨_, List.getElem?_eq_getElem (hinv.runningInside hr)⟩
  obtain ⟨hop, hopd⟩ := read_of_decoded hdec hfetch
  rw [← wf_eq_ofElems s.mem hinv.memWf] at hop hopd
  cases h0.symm.trans hop
  cases h1.symm.trans hopd
  cases (decodePair_encode j).symm.trans hpair
  exact step_of_fetched hr hfetch

/-- Settles O16: the word's program is the one instruction, and the step fetches it. -/
theorem fetchWordRunsNext : Obligations.FetchWordRunsNext := by
  intro i s
  constructor
  · rw [decodeTableWord, tableElems_encodeWord, decodeProgram_encode]
  · rw [withFetchWord_encodeWord]
    exact step_of_fetched rfl rfl

end Sys2Proof
end

section
/-! The family of 40_execution_loop.md. First the missing rules of the step and of each instruction, then the relation
between two runs that differ in OUT, then runs under fuel, then the obligations. -/

namespace Sys2Proof.Machine

/-! ### When a step answers -/

theorem step_of_not_running {s : State} (h : s.status ≠ .running) : step s = .next s := by
  cases hs : s.status with
  | running => exact absurd hs h
  | halted | faulted | decodeFailed => simp [step, hs, idle]

/-- The one state in which `step` stops (log entry 6). -/
theorem step_of_outside {s : State} (hr : s.status = .running) (hpc : s.prog.length ≤ s.pc) :
    step s = .fault .fetchOutsideProg := by
  simp [step, fetch, hr, hpc]

/-- `withCombo` answers a next state, whatever the operand. -/
theorem withCombo_answers (i : Instr) (x : U3) (s : State) (effect : Word → State) :
    ∃ t, withCombo i x s effect = .next t := by
  rcases withCombo_cases i x s effect with ⟨-, h⟩ | ⟨v, -, h⟩
  · exact ⟨_, h⟩
  · exact ⟨_, h⟩

/-- Every instruction answers a next state, in every state: an execution fault is one too (R151). -/
theorem exec_answers (i : Instr) (s : State) : ∃ t, exec i s = .next t := by
  cases i with
  | adv x | bst x | out x | bdv x | cdv x => exact withCombo_answers _ x s _
  | bxl x | jnz x | bxc x => exact ⟨_, rfl⟩

theorem step_answers_of_not_outside {s : State} (h : ¬(s.status = .running ∧ s.prog.length ≤ s.pc)) :
    ∃ t, step s = .next t := by
  by_cases hr : s.status = .running
  · have hpc : s.pc < s.prog.length := by
      by_contra hn
      exact h ⟨hr, by omega⟩
    rw [step_of_fetched hr (List.getElem?_eq_getElem hpc)]
    exact exec_answers _ s
  · exact ⟨s, step_of_not_running hr⟩

/-! ### What single instructions do -/

theorem withCombo_of_some {i : Instr} {x : U3} {s : State} {effect : Word → State} {v : Word}
    (h : combo s x = some v) : withCombo i x s effect = .next (effect v) := by
  simp [withCombo, h]

theorem withCombo_of_none {i : Instr} {x : U3} {s : State} {effect : Word → State} (h : combo s x = none) :
    withCombo i x s effect = .next (raise .reservedCombo i s) := by
  simp [withCombo, h]

theorem raise_eq_faultedBy (cause : FaultCause) (i : Instr) (s : State) :
    raise cause i s = faultedBy cause (encodeOpcode i) (encodeOperand i) s := rfl

theorem low3_setWidth (v : Word) : (low3 v).setWidth 64 = BitVec.ofNat 64 (v.toNat % 8) := by
  apply BitVec.eq_of_toNat_eq
  simp [low3, BitVec.extractLsb']

theorem exec_adv_of_combo {x : U3} {s : State} {v : Word} (h : combo s x = some v) :
    exec (.adv x) s = .next (shiftInto .a (.adv x) v s) :=
  withCombo_of_some (effect := fun v => shiftInto .a (.adv x) v s) h

theorem exec_bdv_of_combo {x : U3} {s : State} {v : Word} (h : combo s x = some v) :
    exec (.bdv x) s = .next (shiftInto .b (.bdv x) v s) :=
  withCombo_of_some (effect := fun v => shiftInto .b (.bdv x) v s) h

theorem exec_bst_of_combo {x : U3} {s : State} {v : Word} (h : combo s x = some v) :
    exec (.bst x) s = .next (advance (writeReg .b (BitVec.ofNat 64 (v.toNat % 8)) s)) := by
  rw [← low3_setWidth]
  exact withCombo_of_some (effect := fun v => advance (writeReg .b ((low3 v).setWidth 64) s)) h

/-- A reserved encoding raises ReservedCombo, whichever combo opcode it has (R93). -/
theorem exec_of_reserved {i : Instr} (hkind : i.operandKind = .combo) (hopd : i.operand = 7) (s : State) :
    exec i s = .next (faultedBy .reservedCombo (encodeOpcode i) (encodeOperand i) s) := by
  rw [← raise_eq_faultedBy]
  cases i with
  | adv x | bst x | out x | bdv x | cdv x => exact withCombo_of_none ((combo_eq_none_iff s x).2 hopd)
  | bxl x | jnz x | bxc x => cases hkind

theorem exec_jnz_of_ne_zero {s : State} (x : U3) (h : s.a ≠ 0) : exec (.jnz x) s = .next (jump (x.toNat / 2) s) := by
  have hA : aNonzero s = true := by simpa [aNonzero] using h
  simp [exec, execJnz, hA, jumpTarget]

/-- A jump to the pointer's own place inside the program changes nothing (R100). -/
theorem jump_self {s : State} (h : s.pc < s.prog.length) : jump s.pc s = s := by
  rw [jump_eq, if_neg (by omega)]

theorem advance_writeReg_a (v : Word) (s : State) :
    advance (writeReg .a v s) = { s with a := v, pc := s.pc + 1, status := haltStatus s (s.pc + 1) } :=
  advance_eq _

theorem advance_writeReg_b (v : Word) (s : State) :
    advance (writeReg .b v s) = { s with b := v, pc := s.pc + 1, status := haltStatus s (s.pc + 1) } :=
  advance_eq _

/-- Under Zero `Shr(a, n)` is `a div 2^n` for every `n` (R110). -/
theorem shr_zero_eq_div (v n : Word) : shr .zero v n = some (BitVec.ofNat 64 (v.toNat / 2 ^ n.toNat)) := by
  by_cases hn : n.toNat ≤ 63
  · rw [shr_of_le _ _ _ hn, Option.some_inj]
    apply BitVec.eq_of_toNat_eq
    have hlt : v.toNat / 2 ^ n.toNat < 2 ^ 64 := (Nat.div_le_self _ _).trans_lt v.isLt
    rw [BitVec.toNat_ushiftRight, Nat.shiftRight_eq_div_pow, BitVec.toNat_ofNat, Nat.mod_eq_of_lt hlt]
  · have hlt : v.toNat < 2 ^ n.toNat := v.isLt.trans_le (Nat.pow_le_pow_right (by decide) (by omega))
    rw [shr_zero_of_gt _ _ (by omega), Nat.div_eq_of_lt hlt]
    rfl

/-- The shift family's effect under Zero: the destination takes the quotient of the old A by the operand's power. -/
theorem shiftInto_of_zero (dst : Reg) (i : Instr) (v : Word) {s : State} (h : s.config.shiftPolicy = .zero) :
    shiftInto dst i v s = advance (writeReg dst (BitVec.ofNat 64 (s.a.toNat / 2 ^ v.toNat)) s) := by
  rw [shiftInto, h, readReg_a, shr_zero_eq_div]

/-- An instruction faults, which a combo instruction alone can, or it completes: FAULT stays and STATUS is what the halt
test at the new pointer gives (R95, R97). -/
theorem exec_faults_or_completes {i : Instr} {s t : State} (h : exec i s = .next t) :
    (i.operandKind = .combo ∧ t.status = .faulted) ∨ (t.fault = s.fault ∧ t.status = haltStatus s t.pc) := by
  rcases exec_next_cases i s t h with ⟨hk, -, rfl⟩ | ⟨-, ⟨x, hi⟩, rfl⟩ | ⟨-, v, -, rfl⟩ | ⟨v, -, rfl⟩ |
    ⟨-, v, -, rfl⟩ | ⟨-, d, -, rfl⟩ | ⟨x, -, -, rfl⟩ | ⟨-, -, -, rfl⟩
  · exact .inl ⟨hk, rfl⟩
  · rcases hi with rfl | rfl | rfl <;> exact .inl ⟨rfl, rfl⟩
  case inr.inr.inr.inr.inr.inr.inl =>
    rw [jump_pc]
    exact .inr ⟨jump_fault _ s, jump_status _ s⟩
  all_goals
    rw [advance_pc]
    exact .inr ⟨advance_fault _, advance_status _⟩

/-- Where the pointer is after an instruction that completes (R94). -/
def nextPc (i : Instr) (s : State) : Nat :=
  match i with
  | .jnz x => if s.a = 0 then s.pc + 1 else x.toNat / 2
  | _ => s.pc + 1

@[simp] theorem nextPc_jnz (x : U3) (s : State) :
    nextPc (.jnz x) s = if s.a = 0 then s.pc + 1 else x.toNat / 2 := rfl

theorem nextPc_of_not_taken {i : Instr} {s : State} (h : ∀ x, i = .jnz x → s.a = 0) : nextPc i s = s.pc + 1 := by
  cases i with
  | jnz x => rw [nextPc_jnz, if_pos (h x rfl)]
  | adv x | bxl x | bst x | bxc x | out x | bdv x | cdv x => rfl

theorem exec_pc_of_not_faulted {i : Instr} {s t : State} (h : exec i s = .next t) (ht : t.status ≠ .faulted) :
    t.pc = nextPc i s := by
  rcases exec_next_cases i s t h with ⟨-, -, rfl⟩ | ⟨-, -, rfl⟩ | ⟨x, v, rfl, rfl⟩ | ⟨v, ⟨x, hi⟩, rfl⟩ |
    ⟨x, v, rfl, rfl⟩ | ⟨x, d, rfl, rfl⟩ | ⟨x, rfl, ha, rfl⟩ | ⟨x, rfl, ha, rfl⟩
  · exact absurd rfl ht
  · exact absurd rfl ht
  · simp [nextPc]
  · rcases hi with rfl | rfl | rfl | rfl <;> simp [nextPc]
  · simp [nextPc]
  · simp [nextPc]
  · rw [jump_pc, nextPc_jnz, if_neg ha]
  · rw [advance_pc, nextPc_jnz, if_pos ha]

/-! ### Two runs that differ in OUT (R99) -/

/-- `s'` is `s` with the beginning `p` of its output exchanged for `q`: the digits after it, and all else, are the
same. -/
def Rebased (p q : List U3) (s s' : State) : Prop := ∃ ds, s.out = p ++ ds ∧ s' = { s with out := q ++ ds }

theorem rebased_start (s : State) (other : List U3) : Rebased s.out other s { s with out := other } :=
  ⟨[], by simp, by simp⟩

section Rebased

variable {p q : List U3} {s s' : State}

/-! What a step reads is the same in both states. -/

theorem Rebased.readReg_eq (h : Rebased p q s s') (r : Reg) : readReg r s' = readReg r s := by
  obtain ⟨ds, -, rfl⟩ := h
  cases r <;> rfl

theorem Rebased.combo_eq (h : Rebased p q s s') (x : U3) : combo s' x = combo s x := by
  simp only [combo, h.readReg_eq]

theorem Rebased.config_eq (h : Rebased p q s s') : s'.config = s.config := by
  obtain ⟨ds, -, rfl⟩ := h
  rfl

theorem Rebased.status_eq (h : Rebased p q s s') : s'.status = s.status := by
  obtain ⟨ds, -, rfl⟩ := h
  rfl

theorem Rebased.fetch_eq (h : Rebased p q s s') : s'.prog[s'.pc]? = s.prog[s.pc]? := by
  obtain ⟨ds, -, rfl⟩ := h
  rfl

/-! Every operation on the state keeps the relation. -/

theorem Rebased.writeReg (h : Rebased p q s s') (r : Reg) (v : Word) :
    Rebased p q (writeReg r v s) (writeReg r v s') := by
  obtain ⟨ds, hout, rfl⟩ := h
  exact ⟨ds, by simp [hout], by cases r <;> rfl⟩

theorem Rebased.emit (h : Rebased p q s s') (d : U3) : Rebased p q (emit d s) (emit d s') := by
  obtain ⟨ds, hout, rfl⟩ := h
  exact ⟨ds ++ [d], by simp [hout], by simp [Machine.emit]⟩

theorem Rebased.raise (h : Rebased p q s s') (cause : FaultCause) (i : Instr) :
    Rebased p q (raise cause i s) (raise cause i s') := by
  obtain ⟨ds, hout, rfl⟩ := h
  exact ⟨ds, hout, rfl⟩

theorem Rebased.jump (h : Rebased p q s s') (n : Nat) : Rebased p q (jump n s) (jump n s') := by
  obtain ⟨ds, hout, rfl⟩ := h
  exact ⟨ds, by simp [hout], by rw [jump_eq, jump_eq]⟩

theorem Rebased.advance (h : Rebased p q s s') : Rebased p q (advance s) (advance s') := by
  obtain ⟨ds, hout, rfl⟩ := h
  exact ⟨ds, by simp [hout], by rw [advance_eq, advance_eq]⟩

theorem Rebased.shiftInto (h : Rebased p q s s') (dst : Reg) (i : Instr) (v : Word) :
    Rebased p q (shiftInto dst i v s) (shiftInto dst i v s') := by
  rw [Machine.shiftInto, Machine.shiftInto, h.config_eq, h.readReg_eq]
  cases shr s.config.shiftPolicy (readReg .a s) v with
  | none => exact h.raise .shiftOverflow i
  | some r => exact (h.writeReg dst r).advance

theorem Rebased.withCombo (h : Rebased p q s s') (i : Instr) (x : U3) {f f' : Word → State} {t : State}
    (hf : ∀ v, Rebased p q (f v) (f' v)) (ht : withCombo i x s f = .next t) :
    ∃ t', withCombo i x s' f' = .next t' ∧ Rebased p q t t' := by
  rcases withCombo_cases i x s f with ⟨hc, hw⟩ | ⟨v, hc, hw⟩
  · cases hw.symm.trans ht
    exact ⟨_, withCombo_of_none (by rw [h.combo_eq, hc]), h.raise .reservedCombo i⟩
  · cases hw.symm.trans ht
    exact ⟨_, withCombo_of_some (by rw [h.combo_eq, hc]), hf v⟩

theorem Rebased.exec (h : Rebased p q s s') (i : Instr) {t : State} (ht : exec i s = .next t) :
    ∃ t', exec i s' = .next t' ∧ Rebased p q t t' := by
  cases i with
  | adv x => exact h.withCombo (.adv x) x (fun v => h.shiftInto .a (.adv x) v) ht
  | bdv x => exact h.withCombo (.bdv x) x (fun v => h.shiftInto .b (.bdv x) v) ht
  | cdv x => exact h.withCombo (.cdv x) x (fun v => h.shiftInto .c (.cdv x) v) ht
  | bst x => exact h.withCombo (.bst x) x (fun v => (h.writeReg .b _).advance) ht
  | out x => exact h.withCombo (.out x) x (fun v => (h.emit (low3 v)).advance) ht
  | bxl x =>
    cases ht
    refine ⟨_, rfl, ?_⟩
    rw [h.readReg_eq]
    exact (h.writeReg .b _).advance
  | bxc x =>
    cases ht
    refine ⟨_, rfl, ?_⟩
    rw [h.readReg_eq, h.readReg_eq]
    exact (h.writeReg .b _).advance
  | jnz x =>
    cases ht
    refine ⟨_, rfl, ?_⟩
    rw [aNonzero, aNonzero, h.readReg_eq]
    split
    · exact h.jump _
    · exact h.advance

/-- One step is a simulation: from related states, related next states. -/
theorem Rebased.step (h : Rebased p q s s') {t : State} (ht : step s = .next t) :
    ∃ t', step s' = .next t' ∧ Rebased p q t t' := by
  rcases step_next_cases s t ht with ⟨hr, i, hi, he⟩ | ⟨hne, rfl⟩
  · rw [step_of_fetched (h.status_eq.trans hr) (h.fetch_eq.trans hi)]
    exact h.exec i he
  · exact ⟨s', step_of_not_running (by rwa [h.status_eq]), h⟩

end Rebased

/-! ### Runs -/

/-- A run of `k + 1` steps is a step and a run of `k` steps. -/
theorem core_run_succ {k : Nat} {s t : State} (h : Host.Core.run Sys2Proof.core (k + 1) s = .next t) :
    ∃ u, step s = .next u ∧ Host.Core.run Sys2Proof.core k u = .next t := by
  cases hs : step s with
  | next u => exact ⟨u, rfl, by simpa [Host.Core.run, Sys2Proof.core, hs] using h⟩
  | fault r => simp [Host.Core.run, Sys2Proof.core, hs] at h
  | refused r => simp [Host.Core.run, Sys2Proof.core, hs] at h

theorem runFor_of_terminal {s : State} (h : s.status.terminal = true) (k : Nat) : runFor k s = .ended s := by
  cases k with
  | zero => simp [runFor, h]
  | succ k => simp [runFor, h]

theorem runFor_succ_of_step {s u : State} (h : ¬s.status.terminal = true) (hu : step s = .next u) (k : Nat) :
    runFor (k + 1) s = runFor k u := by
  simp [runFor, h, hu]

/-- A Running state that steps to itself is a hang (R100). -/
theorem runFor_of_step_self {s : State} (hr : s.status = .running) (hs : step s = .next s) (k : Nat) :
    runFor k s = .notEnded s := by
  have hterm : ¬s.status.terminal = true := by simp [hr, Status.terminal]
  induction k with
  | zero => simp [runFor, hterm]
  | succ k ih => rw [runFor_succ_of_step hterm hs, ih]

end Sys2Proof.Machine

namespace Sys2Proof

open Sys2Proof.Machine

theorem Extends.refl (o : List U3) : Extends o o := ⟨[], by simp⟩

theorem Extends.trans {o₁ o₂ o₃ : List U3} (h₁ : Extends o₁ o₂) (h₂ : Extends o₂ o₃) : Extends o₁ o₃ := by
  obtain ⟨ds, rfl⟩ := h₁
  obtain ⟨es, rfl⟩ := h₂
  exact ⟨ds ++ es, by simp⟩

/-! ### The obligations -/

/-- Settles O18: a step outside the program stops with the model's own fault, every other answers. -/
theorem stepAnswersUnlessOutsideProgram : Obligations.StepAnswersUnlessOutsideProgram := by
  intro s
  by_cases hout : s.status = .running ∧ s.prog.length ≤ s.pc
  · have hstep := step_of_outside hout.1 hout.2
    simp [hstep, hout]
  · obtain ⟨t, hstep⟩ := step_answers_of_not_outside hout
    exact ⟨⟨fun _ => hout, fun _ => ⟨t, hstep⟩⟩, by simp [hstep]⟩

/-- Settles O19: the invariant keeps a Running pointer inside the program. -/
theorem fetchAlwaysFindsInstruction : Obligations.FetchAlwaysFindsInstruction := by
  intro s hinv
  apply step_answers_of_not_outside
  rintro ⟨hr, hpc⟩
  have hinside := hinv.runningInside hr
  omega

/-- Settles O33: the quotient and the residue are of the state before the write; and `a < 2^a`. -/
theorem sourcesAreReadBeforeWriting : Obligations.SourcesAreReadBeforeWriting := by
  intro s
  refine ⟨fun hpol => ?_, fun hpol => ?_, ?_⟩
  · have hdiv : s.a.toNat / 2 ^ s.a.toNat = 0 := Nat.div_eq_of_lt Nat.lt_two_pow_self
    rw [exec_adv_of_combo (v := s.a) rfl, shiftInto_of_zero _ _ _ hpol, hdiv, advance_writeReg_a]
    rfl
  · rw [exec_bdv_of_combo (v := s.b) rfl, shiftInto_of_zero _ _ _ hpol, advance_writeReg_b]
  · rw [exec_bst_of_combo (v := s.b) rfl, advance_writeReg_b]

/-- Settles O35: a non-combo instruction completes, and the halt test never writes Faulted. -/
theorem nonComboInstructionsNeverFault : Obligations.NonComboInstructionsNeverFault := by
  intro i s t hkind h
  obtain ⟨hcombo, -⟩ | ⟨hfault, hstatus⟩ := exec_faults_or_completes h
  · exact absurd hcombo hkind
  · refine ⟨hfault, fun hf => ?_⟩
    rw [hstatus, haltStatus] at hf
    split at hf
    · cases hf
    · exact hf

/-- Settles O38. -/
theorem pointerAdvancesUnlessJnzTaken : Obligations.PointerAdvancesUnlessJnzTaken := by
  intro i s t _ h ht
  rw [exec_pc_of_not_faulted h ht]
  constructor
  · rintro x rfl ha
    rw [nextPc_jnz, if_neg ha]
  · exact nextPc_of_not_taken

/-- Settles O39: an instruction that does not fault completes with the halt test, and Prog is not written. -/
theorem haltExactlyPastTheEnd : Obligations.HaltExactlyPastTheEnd := by
  intro i s t hr h ht
  obtain ⟨-, hf⟩ | ⟨-, hstatus⟩ := exec_faults_or_completes h
  · exact absurd hf ht
  · rw [hstatus, haltStatus, exec_prog h, hr]

/-- Settles O45: exchanging the whole of OUT is a rebasing, and a step simulates itself under it. -/
theorem stepIsIndependentOfOutput : Obligations.StepIsIndependentOfOutput := by
  intro s t other h
  obtain ⟨t', hstep, ds, hout, rfl⟩ := (rebased_start s other).step h
  exact ⟨ds, hout, hstep⟩

/-- Settles O46, by induction on the number of steps. -/
theorem outputGrowsAlongRuns : Obligations.OutputGrowsAlongRuns := by
  intro k
  induction k with
  | zero =>
    intro s t h
    cases h
    exact Extends.refl _
  | succ k ih =>
    intro s t h
    obtain ⟨u, hstep, hrun⟩ := core_run_succ h
    obtain ⟨ds, hout, -⟩ := stepIsIndependentOfOutput s u s.out hstep
    exact Extends.trans ⟨ds, hout⟩ (ih u t hrun)

/-- Settles O48, by induction along the run that has ended. -/
theorem endedRunIgnoresMoreFuel : Obligations.EndedRunIgnoresMoreFuel := by
  intro k j s t h
  fun_induction runFor k s with
  | case1 s hterm =>
    cases h
    exact runFor_of_terminal hterm _
  | case2 => cases h
  | case3 k s hterm =>
    cases h
    exact runFor_of_terminal hterm _
  | case4 k s hterm u hu ih =>
    rw [Nat.succ_add, runFor_succ_of_step hterm hu]
    exact ih h
  | case5 => cases h
  | case6 => cases h

/-- Settles O49: the step jumps to where the pointer already is. -/
theorem jnzToItselfNeverEnds : Obligations.JnzToItselfNeverEnds := by
  intro s x hr hi ha hx
  have hstep : step s = .next s := by
    rw [step_of_fetched hr hi, exec_jnz_of_ne_zero x ha, hx, jump_self (pc_lt_of_fetched hi)]
  exact runFor_of_step_self hr hstep

/-- Settles O14. -/
theorem stepRunsFetchedInstruction : Obligations.StepRunsFetchedInstruction := by
  intro s i hr hi
  exact step_of_fetched hr hi

/-- Settles O17: none of the three is Running. -/
theorem terminalStatesStayFrozen : Obligations.TerminalStatesStayFrozen := by
  intro s h
  apply step_of_not_running
  rcases h with h | h | h <;> simp [h]

/-- Settles O21: the rows of the table are the definition's own cases. -/
theorem comboOperandTable : Obligations.ComboOperandTable := by
  intro s
  exact ⟨rfl, rfl, rfl, rfl, rfl, rfl, rfl, rfl⟩

/-- Settles O32: the five are the combo opcodes, and 7 is the operand element that encodes the operand 7. -/
theorem reservedComboIsTaken : Obligations.ReservedComboIsTaken := by
  intro s
  exact ⟨exec_of_reserved rfl rfl s, exec_of_reserved rfl rfl s, exec_of_reserved rfl rfl s,
    exec_of_reserved rfl rfl s, exec_of_reserved rfl rfl s⟩

end Sys2Proof
end

section
/-! The family of 41_shift.md. The three shift instructions differ in their destination alone, so their rule is proved
once, for the instruction that shifts into a given register; then the obligations. -/

namespace Sys2Proof.Machine

/-! ### The execute part -/

/-- The state after a register write and the advance, for every register (R94, R95). -/
theorem advance_writeReg (r : Reg) (v : Word) (s : State) :
    advance (writeReg r v s) =
      { writeReg r v s with pc := s.pc + 1, status := haltStatus s (s.pc + 1) } := by
  cases r <;> exact advance_eq _

theorem shiftInto_of_shr_some (dst : Reg) (i : Instr) {v r : Word} {s : State}
    (h : shr s.config.shiftPolicy s.a v = some r) : shiftInto dst i v s = advance (writeReg dst r s) := by
  rw [shiftInto, readReg_a, h]

theorem shiftInto_of_shr_none (dst : Reg) (i : Instr) {v : Word} {s : State}
    (h : shr s.config.shiftPolicy s.a v = none) : shiftInto dst i v s = raise .shiftOverflow i s := by
  rw [shiftInto, readReg_a, h]

/-! ### The three instructions, by their destination -/

/-- The instruction that shifts A into a register: adv (R111), bdv (R112) or cdv (R113). -/
def shiftInstr (dst : Reg) (x : U3) : Instr :=
  match dst with
  | .a => .adv x
  | .b => .bdv x
  | .c => .cdv x

theorem shiftInstr_operandKind (dst : Reg) (x : U3) : (shiftInstr dst x).operandKind = .combo := by
  cases dst <;> rfl

theorem shiftInstr_operand (dst : Reg) (x : U3) : (shiftInstr dst x).operand = x := by
  cases dst <;> rfl

theorem encodeOperand_shiftInstr (dst : Reg) (x : U3) : encodeOperand (shiftInstr dst x) = x.setWidth 8 := by
  rw [encodeOperand, shiftInstr_operand]

theorem exec_cdv_of_combo {x : U3} {s : State} {v : Word} (h : combo s x = some v) :
    exec (.cdv x) s = .next (shiftInto .c (.cdv x) v s) :=
  withCombo_of_some (effect := fun v => shiftInto .c (.cdv x) v s) h

theorem exec_shiftInstr_of_combo (dst : Reg) {x : U3} {s : State} {v : Word} (h : combo s x = some v) :
    exec (shiftInstr dst x) s = .next (shiftInto dst (shiftInstr dst x) v s) := by
  cases dst with
  | a => exact exec_adv_of_combo h
  | b => exact exec_bdv_of_combo h
  | c => exact exec_cdv_of_combo h

/-- Where `Shr` gives a result, the destination takes it and the instruction completes. -/
theorem exec_shiftInstr_of_shr_some (dst : Reg) {x : U3} {s : State} {v r : Word} (hv : combo s x = some v)
    (hr : shr s.config.shiftPolicy s.a v = some r) :
    exec (shiftInstr dst x) s =
      .next { writeReg dst r s with pc := s.pc + 1, status := haltStatus s (s.pc + 1) } := by
  rw [exec_shiftInstr_of_combo dst hv, shiftInto_of_shr_some dst _ hr, advance_writeReg]

/-- A shift within the width, under either policy. -/
theorem exec_shiftInstr_of_le (dst : Reg) {x : U3} {s : State} {v : Word} (hv : combo s x = some v)
    (hn : v.toNat ≤ 63) :
    exec (shiftInstr dst x) s =
      .next { writeReg dst (s.a >>> v.toNat) s with pc := s.pc + 1, status := haltStatus s (s.pc + 1) } :=
  exec_shiftInstr_of_shr_some dst hv (shr_of_le _ _ _ hn)

/-- A shift beyond the width under `SHIFT_POLICY = Zero`. -/
theorem exec_shiftInstr_of_ge_zero (dst : Reg) {x : U3} {s : State} {v : Word} (hv : combo s x = some v)
    (hn : 64 ≤ v.toNat) (hpol : s.config.shiftPolicy = .zero) :
    exec (shiftInstr dst x) s =
      .next { writeReg dst 0 s with pc := s.pc + 1, status := haltStatus s (s.pc + 1) } := by
  have hr : shr s.config.shiftPolicy s.a v = some 0 := by rw [hpol, shr_zero_of_gt _ _ hn]
  exact exec_shiftInstr_of_shr_some dst hv hr

/-- A shift beyond the width under `SHIFT_POLICY = Fault`: ShiftOverflow is taken, and no register is written. -/
theorem exec_shiftInstr_of_ge_fault (dst : Reg) {x : U3} {s : State} {v : Word} (hv : combo s x = some v)
    (hn : 64 ≤ v.toNat) (hpol : s.config.shiftPolicy = .fault) :
    exec (shiftInstr dst x) s =
      .next (faultedBy .shiftOverflow (encodeOpcode (shiftInstr dst x)) (x.setWidth 8) s) := by
  have hr : shr s.config.shiftPolicy s.a v = none := by rw [hpol, shr_fault_of_gt _ _ hn]
  rw [exec_shiftInstr_of_combo dst hv, shiftInto_of_shr_none dst _ hr, raise_eq_faultedBy,
    encodeOperand_shiftInstr]

/-- The reserved operand (R93). -/
theorem exec_shiftInstr_of_reserved (dst : Reg) {x : U3} (s : State) (hx : x = 7) :
    exec (shiftInstr dst x) s =
      .next (faultedBy .reservedCombo (encodeOpcode (shiftInstr dst x)) 7 s) := by
  have hopd : (shiftInstr dst x).operand = 7 := (shiftInstr_operand dst x).trans hx
  rw [exec_of_reserved (shiftInstr_operandKind dst x) hopd, encodeOperand_shiftInstr, hx]
  rfl

end Sys2Proof.Machine

namespace Sys2Proof

open Sys2Proof.Machine

/-! ### The obligations -/

/-- Settles O23: the branches of the definition; the quotient is what they amount to under Zero. -/
theorem shrFollowsItsDefinition : Obligations.ShrFollowsItsDefinition := by
  intro v n
  exact ⟨fun hn policy => shr_of_le policy v n hn, fun hn => ⟨shr_zero_of_gt v n hn, shr_fault_of_gt v n hn⟩,
    shr_zero_eq_div v n⟩

/-- Settles O24: adv is the shift instruction into A. -/
theorem advShiftsIntoA : Obligations.AdvShiftsIntoA := by
  intro x s
  exact ⟨fun _ => exec_shiftInstr_of_le .a, fun _ => exec_shiftInstr_of_ge_zero .a,
    fun _ => exec_shiftInstr_of_ge_fault .a, exec_shiftInstr_of_reserved .a s⟩

/-- Settles O25: bdv is the shift instruction into B. -/
theorem bdvShiftsIntoB : Obligations.BdvShiftsIntoB := by
  intro x s
  exact ⟨fun _ => exec_shiftInstr_of_le .b, fun _ => exec_shiftInstr_of_ge_zero .b,
    fun _ => exec_shiftInstr_of_ge_fault .b, exec_shiftInstr_of_reserved .b s⟩

/-- Settles O26: cdv is the shift instruction into C. -/
theorem cdvShiftsIntoC : Obligations.CdvShiftsIntoC := by
  intro x s
  exact ⟨fun _ => exec_shiftInstr_of_le .c, fun _ => exec_shiftInstr_of_ge_zero .c,
    fun _ => exec_shiftInstr_of_ge_fault .c, exec_shiftInstr_of_reserved .c s⟩

end Sys2Proof
end

section
/-! The family of 42_bitwise.md. bxl and bxc complete from every state, with one write to B; then what the XOR with a
literal does to the bits of B, and the obligations. -/

namespace Sys2Proof.Machine

/-! ### What the instructions do -/

theorem exec_bxl (x : U3) (s : State) : exec (.bxl x) s = .next (advance (writeReg .b (s.b ^^^ literal x) s)) := rfl

theorem exec_bxc (x : U3) (s : State) : exec (.bxc x) s = .next (advance (writeReg .b (s.b ^^^ s.c) s)) := rfl

/-- What a completed bxl leaves in B (R120). -/
theorem b_of_exec_bxl {x : U3} {s t : State} (h : exec (.bxl x) s = .next t) : t.b = s.b ^^^ literal x := by
  rw [exec_bxl] at h
  cases h
  rw [advance_b, writeReg_b_b]

/-! ### The XOR with a literal -/

/-- A literal has three bits (R64). -/
theorem literal_ushiftRight_three (x : U3) : literal x >>> 3 = 0 := by
  have hx : x.toNat / 8 = 0 := Nat.div_eq_of_lt x.isLt
  apply BitVec.eq_of_toNat_eq
  rw [BitVec.toNat_ushiftRight, Nat.shiftRight_eq_div_pow, literal, BitVec.toNat_setWidth_of_le (by decide)]
  exact hx

/-- A literal reaches bits 2:0 alone, so bits 63:3 stay. -/
theorem xor_literal_ushiftRight_three (v : Word) (x : U3) : (v ^^^ literal x) >>> 3 = v >>> 3 := by
  rw [BitVec.ushiftRight_xor_distrib, literal_ushiftRight_three, BitVec.ofNat_eq_ofNat, BitVec.xor_zero]

end Sys2Proof.Machine

namespace Sys2Proof

open Sys2Proof.Machine

/-! ### The obligations -/

/-- Settles O27: bxl resolves no combo operand, so no literal stops it. -/
theorem bxlXorsLiteralIntoB : Obligations.BxlXorsLiteralIntoB := by
  intro x s
  rw [exec_bxl, advance_writeReg_b, literal]

/-- Settles O28: the low three bits are the residue modulo 8, and 7 is the reserved operand. -/
theorem bstStoresMod8IntoB : Obligations.BstStoresMod8IntoB := by
  intro x s
  constructor
  · intro v hv
    rw [exec_bst_of_combo hv, advance_writeReg_b]
  · rintro rfl
    exact exec_of_reserved rfl rfl s

/-- Settles O29: bxc does not read its operand. -/
theorem bxcXorsCIntoB : Obligations.BxcXorsCIntoB := by
  intro x s
  rw [exec_bxc, advance_writeReg_b]

/-- Settles O34: the literal has no bit above 2, and XOR with the same word twice is the identity. -/
theorem bxlKeepsHighBitsAndUndoesItself : Obligations.BxlKeepsHighBitsAndUndoesItself := by
  intro x s t u hst htu
  have ht : t.b = s.b ^^^ literal x := b_of_exec_bxl hst
  have hu : u.b = t.b ^^^ literal x := b_of_exec_bxl htu
  constructor
  · rw [ht, xor_literal_ushiftRight_three]
  · rw [hu, ht, BitVec.xor_assoc, BitVec.xor_self, BitVec.xor_zero]

end Sys2Proof
end

section
/-! The family of 43_control.md. jnz completes from every state with no register written; the test of A alone decides
where the pointer goes. -/

namespace Sys2Proof.Machine

/-- The branch of jnz that is not taken (R130). -/
theorem exec_jnz_of_eq_zero {s : State} (x : U3) (h : s.a = 0) : exec (.jnz x) s = .next (advance s) := by
  have hA : aNonzero s = false := by simpa [aNonzero] using h
  simp [exec, execJnz, hA]

end Sys2Proof.Machine

namespace Sys2Proof

open Sys2Proof.Machine

/-! ### The obligation -/

/-- Settles O30: the two branches of the test of A, each a move of the pointer and the halt test there. -/
theorem jnzJumpsWhenANonzero : Obligations.JnzJumpsWhenANonzero := by
  intro x s
  constructor
  · intro ha
    rw [exec_jnz_of_ne_zero x ha, jump_eq, haltStatus]
  · intro ha
    rw [exec_jnz_of_eq_zero x ha, advance_eq, haltStatus]

end Sys2Proof
end

section
/-! The family of 44_output.md. What out appends, then the text of OUT by its three shapes: no digit, one digit, and a
digit before others. -/

namespace Sys2Proof.Machine

/-! ### The instruction -/

/-- The low three bits are the residue modulo 8, as a digit (R140). -/
theorem low3_eq_ofNat_mod (v : Word) : low3 v = BitVec.ofNat 3 (v.toNat % 8) := by
  apply BitVec.eq_of_toNat_eq
  simp [low3, BitVec.extractLsb']

theorem exec_out_of_combo {x : U3} {s : State} {v : Word} (h : combo s x = some v) :
    exec (.out x) s = .next (advance (emit (BitVec.ofNat 3 (v.toNat % 8)) s)) := by
  rw [← low3_eq_ofNat_mod]
  exact withCombo_of_some (effect := fun v => advance (emit (low3 v) s)) h

theorem advance_emit (d : U3) (s : State) :
    advance (emit d s) = { s with out := s.out ++ [d], pc := s.pc + 1, status := haltStatus s (s.pc + 1) } :=
  advance_eq _

/-! ### The text of OUT -/

/-- A number below ten is one character. -/
theorem decimalChars_of_lt_ten {n : Nat} (h : n < 10) : decimalChars n = [Char.ofNat (48 + n)] := by
  simp only [decimalChars, if_pos h, Nat.mod_eq_of_lt h]

/-- A digit of OUT is 0 to 7, so it is one character. -/
theorem decimalChars_digit (d : U3) : decimalChars d.toNat = [Char.ofNat (48 + d.toNat)] := by
  have hd : d.toNat < 8 := d.isLt
  exact decimalChars_of_lt_ten (by omega)

theorem joinChars_cons_cons (sep : Char) (t u : List Char) (ts : List (List Char)) :
    joinChars sep (t :: u :: ts) = t ++ sep :: joinChars sep (u :: ts) := rfl

theorem renderOut_nil : renderOut [] = "" := rfl

theorem renderOut_singleton (d : U3) : (renderOut [d]).toList = [Char.ofNat (48 + d.toNat)] := by
  rw [renderOut, String.toList_ofList]
  exact decimalChars_digit d

/-- The comma stands between a digit and the text of those after it. -/
theorem renderOut_cons_cons (d e : U3) (ds : List U3) :
    (renderOut (d :: e :: ds)).toList = Char.ofNat (48 + d.toNat) :: ',' :: (renderOut (e :: ds)).toList := by
  simp only [renderOut, String.toList_ofList, List.map_cons]
  rw [joinChars_cons_cons, decimalChars_digit d, List.singleton_append]

end Sys2Proof.Machine

namespace Sys2Proof

open Sys2Proof.Machine

/-! ### The obligations -/

/-- Settles O53, by the shapes of OUT: each digit is one character. -/
theorem outputRendering : Obligations.OutputRendering :=
  ⟨renderOut_nil, renderOut_singleton, renderOut_cons_cons⟩

/-- Settles O31: the digit is the low three bits of the resolved operand, and 7 is the reserved operand. -/
theorem outAppendsOneDigit : Obligations.OutAppendsOneDigit := by
  intro x s
  constructor
  · intro v hv
    rw [exec_out_of_combo hv, advance_emit]
  · rintro rfl
    exact exec_of_reserved rfl rfl s

end Sys2Proof
end

section
/-! The family of 60_exceptions.md. What Load leaves and what the host observes, then the inversion of an instruction
that leaves the engine Faulted, then runs of the invariant's states, then the obligations. -/

namespace Sys2Proof.Machine

/-! ### Load and Observe-output -/

/-- Load of a raw program that decodes (R160, R180, R181). -/
theorem load_of_ok (a0 b0 c0 : Word) {raw : List Elem} {p : List Instr} (h : decodeProgram raw = .ok p) (s : State) :
    load a0 b0 c0 raw s =
      { clearFor a0 b0 c0 s with mem := Memory.ofElems raw, prog := p, status := statusAfterDecode p } :=
  storeProgram_of_ok raw p _ h

/-- Load of a raw program that does not decode (R152). -/
theorem load_of_error (a0 b0 c0 : Word) {raw : List Elem} {f : FaultRecord} (h : decodeProgram raw = .error f)
    (s : State) :
    load a0 b0 c0 raw s = raiseDecode f { clearFor a0 b0 c0 s with mem := Memory.ofElems raw } :=
  storeProgram_of_error raw f _ h

/-- The run goes on exactly in Running (R27, R101). -/
theorem not_terminal_iff (st : Status) : ¬st.terminal = true ↔ st = .running := by
  cases st with
  | running => simp [Status.terminal]
  | halted | faulted | decodeFailed => simp [Status.terminal]

theorem observeOutput_of_terminal {s : State} (h : s.status.terminal = true) :
    observeOutput s = some { status := s.status, digits := s.out, text := renderOut s.out } :=
  if_pos h

/-- A run that has not ended has no result (R101). -/
theorem observeOutput_of_running {s : State} (h : s.status = .running) : observeOutput s = none :=
  if_neg ((not_terminal_iff s.status).2 h)

/-! ### Instructions that leave the engine Faulted (R150, R151) -/

/-- The halt test never writes Faulted (R95). -/
theorem jump_not_faulted {s : State} (h : s.status ≠ .faulted) (n : Nat) : (jump n s).status ≠ .faulted := by
  rw [jump_status]
  split
  · nofun
  · exact h

theorem advance_not_faulted {s : State} (h : s.status ≠ .faulted) : (advance s).status ≠ .faulted :=
  jump_not_faulted h (s.pc + 1)

/-- An instruction that makes the engine Faulted has taken one of the two execution faults, and done nothing else: a
reserved encoding's (R93), or a shift's under the policy Fault (R110). -/
theorem exec_faulted_cases {i : Instr} {s t : State} (hs : s.status ≠ .faulted) (h : exec i s = .next t)
    (ht : t.status = .faulted) :
    (i.operandKind = .combo ∧ i.operand = 7 ∧ t = raise .reservedCombo i s) ∨
      (s.config.shiftPolicy = .fault ∧ (∃ dst x, i = shiftInstr dst x) ∧ t = raise .shiftOverflow i s) := by
  rcases exec_next_cases i s t h with hreserved | ⟨hpol, ⟨x, hi⟩, hraise⟩ | ⟨-, v, -, rfl⟩ | ⟨v, -, rfl⟩ |
    ⟨-, v, -, rfl⟩ | ⟨-, d, -, rfl⟩ | ⟨x, -, -, rfl⟩ | ⟨-, -, -, rfl⟩
  · exact .inl hreserved
  · refine .inr ⟨hpol, ?_, hraise⟩
    rcases hi with rfl | rfl | rfl
    · exact ⟨.a, x, rfl⟩
    · exact ⟨.b, x, rfl⟩
    · exact ⟨.c, x, rfl⟩
  case inr.inr.inr.inr.inr.inr.inl => exact absurd ht (jump_not_faulted hs _)
  all_goals exact absurd ht (advance_not_faulted (by simpa using hs))

/-- A shift that overflows has a resolved operand, and it is beyond the width: the reserved operand has another cause,
and a shift that completes moves the pointer (R93, R110). -/
theorem amount_of_shiftOverflow {dst : Reg} {x : U3} {s : State}
    (h : exec (shiftInstr dst x) s = .next (raise .shiftOverflow (shiftInstr dst x) s)) :
    ∃ v, combo s x = some v ∧ 64 ≤ v.toNat := by
  cases hv : combo s x with
  | none =>
    rw [exec_shiftInstr_of_reserved dst s ((combo_eq_none_iff s x).1 hv)] at h
    injection h with hstate
    exact nomatch congrArg (·.fault.cause) hstate
  | some v =>
    rw [exec_shiftInstr_of_combo dst hv] at h
    injection h with hstate
    rcases shiftInto_cases dst (shiftInstr dst x) v s with ⟨hnone, -⟩ | ⟨r, -, hdone⟩
    · exact ⟨v, rfl, (shr_eq_none _ _ _ hnone).1⟩
    · have hpc : s.pc + 1 = s.pc := by simpa using congrArg State.pc (hdone.symm.trans hstate)
      omega

/-- The literal combo operands are 0 to 3, so a greater value is a register's (R92). -/
theorem register_operand_of_four_le {s : State} {x : U3} {v : Word} (hv : combo s x = some v) (hn : 4 ≤ v.toNat) :
    x = 4 ∨ x = 5 ∨ x = 6 := by
  rcases combo_cases s x with ⟨hx, hlit⟩ | ⟨hx, -⟩ | ⟨hx, -⟩ | ⟨hx, -⟩ | ⟨-, hnone⟩
  · cases hlit.symm.trans hv
    have hval : (literal x).toNat = x.toNat := BitVec.toNat_setWidth_of_le (by decide)
    omega
  · exact .inl hx
  · exact .inr (.inl hx)
  · exact .inr (.inr hx)
  · cases hnone.symm.trans hv

/-! ### Runs whose every Running step answers -/

/-- Where every Running step from `P` answers within `P`, a run is neither stuck nor refused, whatever its fuel. -/
theorem runFor_verdict_of_step_answers {P : State → Prop}
    (hstep : ∀ s, P s → s.status = .running → ∃ t, step s = .next t ∧ P t) (k : Nat) {s : State} (hs : P s) :
    (∃ t, runFor k s = .ended t ∧ t.status.terminal = true ∧ P t) ∨
      (∃ t, runFor k s = .notEnded t ∧ t.status = .running ∧ P t) := by
  induction k generalizing s with
  | zero =>
    by_cases hterm : s.status.terminal = true
    · exact .inl ⟨s, runFor_of_terminal hterm 0, hterm, hs⟩
    · exact .inr ⟨s, if_neg hterm, (not_terminal_iff _).1 hterm, hs⟩
  | succ k ih =>
    by_cases hterm : s.status.terminal = true
    · exact .inl ⟨s, runFor_of_terminal hterm (k + 1), hterm, hs⟩
    · obtain ⟨u, hu, hPu⟩ := hstep s hs ((not_terminal_iff _).1 hterm)
      rw [runFor_succ_of_step hterm hu]
      exact ih hPu

end Sys2Proof.Machine

namespace Sys2Proof

open Sys2Proof.Machine

/-! ### The obligations -/

/-- Settles O47: under the invariant every step answers, and keeps it. -/
theorem runEndsTerminalOrIsNotEnded : Obligations.RunEndsTerminalOrIsNotEnded := by
  intro k s hinv
  refine runFor_verdict_of_step_answers (fun u hu _ => ?_) k hinv
  obtain ⟨t, hstep⟩ := fetchAlwaysFindsInstruction u hu
  exact ⟨t, hstep, stepKeepsInv u t hu hstep⟩

/-- Settles O42: the fault is taken by the fetched instruction, and `raise` is all it does. -/
theorem executionFaultIsPrecise : Obligations.ExecutionFaultIsPrecise := by
  intro s t hr hstep ht
  rcases step_next_cases s t hstep with ⟨-, i, hi, hexec⟩ | ⟨hne, -⟩
  · rcases exec_faulted_cases (by simp [hr]) hexec ht with ⟨-, -, hraise⟩ | ⟨-, -, hraise⟩
    · exact ⟨i, .reservedCombo, hi, .inl rfl, hraise⟩
    · exact ⟨i, .shiftOverflow, hi, .inr rfl, hraise⟩
  · exact absurd hr hne

/-- Settles O43: an overflowing shift amount is at least 64, which no literal operand is. -/
theorem faultCausesFitTheirInstructions : Obligations.FaultCausesFitTheirInstructions := by
  intro i s t hr h ht
  rcases exec_faulted_cases (by simp [hr]) h ht with ⟨hkind, hopd, rfl⟩ | ⟨hpol, ⟨dst, x, rfl⟩, rfl⟩
  · exact .inl ⟨rfl, hkind, hopd⟩
  · obtain ⟨v, hv, hn⟩ := amount_of_shiftOverflow h
    have hi : shiftInstr dst x = .adv x ∨ shiftInstr dst x = .bdv x ∨ shiftInstr dst x = .cdv x := by
      cases dst <;> simp [shiftInstr]
    exact .inr ⟨rfl, hpol, x, v, hi, register_operand_of_four_le hv (by omega), hv, hn⟩

/-- Settles O9: `clearFor` and the two results of Decode write every field but the configuration; a failed decode
leaves the empty Prog (log entry 5). -/
theorem loadSetsWholeState : Obligations.LoadSetsWholeState := by
  intro a0 b0 c0 raw
  constructor
  · intro p h s
    rw [load_of_ok a0 b0 c0 h, statusAfterDecode]
    rfl
  · intro f h
    refine ⟨[], fun s => ?_⟩
    rw [load_of_error a0 b0 c0 h]
    rfl

/-- Settles O52: the view of a terminal state carries its STATUS, and Halted alone is a completed run's. -/
theorem observedOutputIsMarked : Obligations.ObservedOutputIsMarked := by
  intro s
  refine ⟨fun hh => ?_, fun hf => ?_, observeOutput_of_running⟩
  · exact ⟨_, observeOutput_of_terminal (by rw [hh]; rfl), rfl, rfl, by simp [OutputView.completed, hh]⟩
  · exact ⟨_, observeOutput_of_terminal (by rw [hf]; rfl), rfl, hf, by simp [OutputView.completed, hf]⟩

end Sys2Proof
end

section
/-! The family of 70_reset_and_hazards.md. The reset state is what Load leaves of the empty program (log entry 1), so
what holds after every Load holds at it. -/

namespace Sys2Proof.Machine

/-- The empty raw program is within the contract and has no instructions (R181). -/
theorem decodeProgram_nil : decodeProgram [] = .ok [] :=
  decodeProgram_of_even rfl

/-- Load of the empty program into a state clears it to Halted (R181) and keeps the configuration alone (R182). -/
theorem load_nil (s : State) : load 0 0 0 [] s = { State.reset with config := s.config } :=
  load_of_ok 0 0 0 decodeProgram_nil s

end Sys2Proof.Machine

namespace Sys2Proof

open Sys2Proof.Machine

/-! ### The obligations -/

/-- Settles O13: Load keeps nothing of the state before it but its configuration, here the reset state's own. -/
theorem resetIsLoadOfEmptyProgram : Obligations.ResetIsLoadOfEmptyProgram := by
  intro s hconfig
  rw [load_nil, hconfig]
  rfl

/-- Settles O12: the reset state is one that Load leaves (O13), and every such state meets the invariant (O11). -/
theorem invHoldsAtReset : Obligations.InvHoldsAtReset := by
  have hload : State.reset = load 0 0 0 [] State.reset := resetIsLoadOfEmptyProgram State.reset rfl
  unfold Obligations.InvHoldsAtReset
  rw [hload]
  exact invHoldsAfterLoad 0 0 0 [] State.reset

end Sys2Proof
end
